-- ==== Sys2Proof/Word.lean ====
section
/-! DEFINITION. The widths the spec names: bytes, window offsets, access and event words, tick counts (30_encoding.md R80, R85; 20_memory.md R60). -/

namespace Sys2Proof

/-- A register of the window, a payload byte, a byte on the serial link (R60, R82, R89). -/
abbrev Byte := BitVec 8

/-- A 7-bit offset into the consumer register window (R60). -/
abbrev Offset := BitVec 7

/-- A consumer operation as its 16-bit access word (R85). -/
abbrev AccessWord := BitVec 16

/-- An environment event as its 32-bit event word (R80). -/
abbrev EventWord := BitVec 32

/-- The 24-bit tick field of an EDGE event, of which W_TICK bits carry the count (R81). -/
abbrev Ticks := BitVec 24

end Sys2Proof
end

