-- ==== Sys2Proof/Config.lean ====
section
/-! DEFINITION. The implementation parameters of 00_scope.md R8, the test configuration of R9, and the open values. -/

namespace Sys2Proof

/-- Bits in one command frame, fixed by the source (R8: NBITS = 14). -/
abbrev nbitsOfFrame : Nat := 14

/-- The parameters of R8. A model takes them as arguments: they are carried in `State.cfg`, which no step
writes (notes/assumptions/1.md, DESIGN CHOICE). -/
structure Config where
  /-- CAP: inbound packet capacity in payload bytes. -/
  cap : Nat
  /-- TICK_NS: duration of one capture tick in nanoseconds. -/
  tickNs : Nat
  /-- W_TICK: width of the captured interval. -/
  wTick : Nat
  shortMin : Nat
  shortMax : Nat
  longMin : Nat
  longMax : Nat
  /-- INVERT_LEVEL: invert the pin level before table lookup. -/
  invertLevel : Bool
  /-- ROWS and COLS: the display geometry the host works with. -/
  rows : Nat
  cols : Nat
  /-- HOST_LEN_ATTEMPTS: host read attempts for a length byte, in total. -/
  hostLenAttempts : Nat
  /-- I19: does the consumer acknowledge a payload it does not know (R222)? -/
  ackUnknown : Bool
  deriving DecidableEq, Repr

/-- R8: a configuration is well-formed. -/
def Config.wf (c : Config) : Bool :=
  decide (1 ≤ c.shortMin ∧ c.shortMin ≤ c.shortMax ∧ c.shortMax < c.longMin ∧ c.longMin ≤ c.longMax
    ∧ c.longMax + 2 ≤ 2 ^ c.wTick ∧ 1 ≤ c.cap ∧ c.cap ≤ 31 ∧ 8 ≤ c.wTick ∧ c.wTick ≤ 24)

/-- TC1, the test configuration of R9, with the defaults of R8 for the host's parameters and the reference
consumer's handling of unknown payloads (R222). -/
def Config.tc1 : Config where
  cap := 24
  tickNs := 1000
  wTick := 16
  shortMin := 444
  shortMax := 1333
  longMin := 1334
  longMax := 2222
  invertLevel := false
  rows := 4
  cols := 20
  hostLenAttempts := 3
  ackUnknown := true

/-- WIN_BASE, the window's base address in the consumer's address space: OPEN (R60). No body, so no proof can
see its value (notes/assumptions/3.md). -/
opaque Config.winBase : Nat

/-- TICK_PERIOD, the period of the timer tick: OPEN (R177, R270). No rule reads it. -/
opaque Config.tickPeriodNs : Nat

/-- The n-th free byte: what a read gives where the spec says *any value* (R65, 93_implementation_defined.md I7,
I8, I9). No body, so no proof can see its value (notes/assumptions/7.md). -/
opaque Config.freeByte : Nat → Byte

end Sys2Proof
end

