-- ==== Sys2Proof/Machine/State.lean ====
section
/-! DEFINITION. The state the spec gives the machine (10_state.md R22 to R39, 44_link_partner.md, 43_payloads.md R223), the reasons a step can stop, and the state after reset (70_reset_and_hazards.md R290). -/

namespace Sys2Proof.Machine

/-- No event and no consumer operation raises an exception, a trap or a fault (60_exceptions.md R260), so there is
no reason to fault: nobody raises one, and every claim that a step does not fault is true of this type. -/
inductive Fault where
  deriving DecidableEq, Repr

/-- Why the model gives a step no meaning. Each of these is safe: the model stops where the hardware goes on. -/
inductive Refusal where
  /-- Raised only by an arm of `exec` whose instruction has no meaning yet. Safe. -/
  | notModelled (mnemonic : String)
  /-- Raised by the decoder on a reserved event word and by EDGE on ticks that do not fit W_TICK (R81, R84). Safe. -/
  | reservedEvent
  /-- Raised by the decoder on a write to a read-only or reserved offset, by RD on a reserved offset and by
  WR TXBUF past the buffer (R51: a model shall refuse them). Safe. -/
  | reservedAccess
  /-- Raised by the decoder on a reserved command code (R88, R187). Safe. -/
  | reservedCommand
  /-- Raised by TX_SEND when TXLEN is 0 or above CAP (R148). Safe. -/
  | illegalTxLength
  /-- Raised by a frame that is longer than CAP, which no mailbox holds and TX_SEND never sends (R89, R148). Safe. -/
  | frameTooLong
  /-- Raised by the decoder when the consumer is to send a frame that is no device-to-host row of R90. Safe. -/
  | unknownFrame
  /-- Raised by a host move outside the host's duties: a frame sent while a reply is awaited or being read, a length
  outside 1 to CAP, or a frame no client command produces (R244, R248, R249, 92_eei_decisions.md D40,
  93_implementation_defined.md I12). Safe for claims about a host that keeps its duties, and no claim is made about
  another (notes/assumptions/17.md). -/
  | hostDuty
  /-- Raised by every step under a configuration that is not well-formed (R8, I13). Safe. -/
  | illFormedConfig
  deriving DecidableEq, Repr

/-- R23: the seven decoder states, in the source's order. Code 7 is never written and has no name. -/
inductive DState where
  | BEGIN | START1 | MID1 | MID0 | START0 | ERROR | END
  deriving DecidableEq, Repr

/-- R261: the cause of the most recent decoder restart. Codes 5 to 7 are never written and have no name. -/
inductive Cause where
  | none | invalid | selfmap | state | underflow
  deriving DecidableEq, Repr

/-- R29: what the next accepted byte is. -/
inductive RxPhase where
  | len | data
  deriving DecidableEq, Repr

/-- Bytes at indices, as cells with strictly rising indices and no zero byte: an index that is not listed reads
0x00, the reset contents of both packet buffers (R290). -/
abbrev Memory := List Host.Cell

/-- The decoder unit (R23 to R28). -/
structure Edc where
  /-- DSTATE (R23). -/
  dstate : DState
  /-- CNT, the remaining-bit counter (R24). -/
  cnt : BitVec 4
  /-- WORD (R25). -/
  word : BitVec 14
  /-- EDGE_EN (R26). -/
  edgeEn : Bool
  /-- IRRDY (R27). -/
  irrdy : Bool
  /-- DIAG (R28). -/
  diag : Cause
  deriving DecidableEq, Repr

/-- The framer unit, receive side (R29 to R34). -/
structure Rx where
  /-- RXPHASE (R29). -/
  phase : RxPhase
  /-- RXLEN (R30). -/
  len : Byte
  /-- RXCNT (R31). -/
  cnt : Byte
  /-- RXBUF[0..CAP] (R32). -/
  buf : Memory
  /-- RXRDY (R33). -/
  rdy : Bool
  /-- RX_EN (R33). -/
  en : Bool
  /-- LENERR (R34). -/
  lenerr : Bool
  /-- RXOVR (R34). -/
  ovr : Bool
  deriving DecidableEq, Repr

/-- The framer unit, transmit side (R35, R36). -/
structure Tx where
  /-- TXLEN (R35). -/
  len : Byte
  /-- TXBUF[0..CAP-1] (R35). -/
  buf : Memory
  /-- TXQ, the bytes the link partner has not yet taken, oldest first (R36). -/
  q : List Byte
  deriving DecidableEq, Repr

/-- The dispatcher (R37 to R39). -/
structure Ids where
  /-- GIE (R37). -/
  gie : Bool
  /-- EPEND, EPEND_T and EPEND_L: the latched edge (R38). -/
  epend : Bool
  ependT : Ticks
  ependL : Bool
  /-- RPEND and RPEND_B: the latched byte (R38). -/
  rpend : Bool
  rpendB : Byte
  /-- TPEND: the latched tick (R38). -/
  tpend : Bool
  /-- EVOVR (R38). -/
  evovr : Bool
  /-- SLEEP (R39). -/
  sleep : Bool
  deriving DecidableEq, Repr

/-- A call of the excluded display driver (R4): `init()`, `send_command(byte, isCharacter, extraDelay)`, and the
effects R211 to R215 name without saying how the driver is told (91_not_in_source.md N9). -/
inductive DriverCall where
  | init
  | clear
  | dim (level : Byte)
  | home
  | goto (x y : Byte)
  | print (text : List Byte)
  | sendCommand (byte : Byte) (isCharacter : Bool) (extraDelay : Byte)
  deriving DecidableEq, Repr

/-- One action of the consumer's program (R223; the program is a parameter, I20). -/
inductive ConsumerAct where
  /-- Issue a register read, a register write or a command (R85). -/
  | access (w : AccessWord)
  /-- Act on a frame `L ++ P` taken from the packet mailbox (R211 to R216, R220, R222). -/
  | takeFrame (bytes : List Byte)
  /-- Send a frame `L ++ P` to the host (R217, R218). -/
  | sendFrame (bytes : List Byte)
  /-- Call the display driver. -/
  | driver (c : DriverCall)
  /-- The two tests of R223 on the STATUS byte just read. -/
  | branchStatus
  /-- `RD RXLEN -> L`, then one read of RXBUF for each payload byte (R223). -/
  | readPayload
  /-- Keep the byte just read in the local variables. -/
  | keep
  /-- The local variables are `L ++ P`: act on that packet and go on with the loop (R223). -/
  | takePacket
  /-- The local variables are `a, c`: re-arm, unmask, send the decoder event and go on with the loop (R223). -/
  | takeIr
  /-- `goto loop` (R223). -/
  | loop
  deriving DecidableEq, Repr

/-- The consumer: what its port last returned, its program, its local variables and the driver calls it has made. -/
structure Consumer where
  /-- The byte the last register read returned (R180: `v <- MemRead(off, 1)`). -/
  rdData : Byte
  /-- The model's own counter: it numbers the free values of any-value reads (notes/assumptions/7.md). -/
  freeCount : Nat
  /-- The actions still to be taken, first first. -/
  prog : List ConsumerAct
  /-- Local variables of R223, oldest first. -/
  locals : List Byte
  /-- The display driver calls made so far, oldest first. -/
  display : List DriverCall
  deriving DecidableEq, Repr

/-- R242: where the host is in reading a frame. -/
inductive HostRead where
  /-- No read in progress; the channel is in non-blocking mode. -/
  | idle
  /-- Reading the length byte, with this many attempts left. -/
  | length (attemptsLeft : Nat)
  /-- Reading the payload of this length; the bytes taken so far, oldest first. -/
  | payload (len : Byte) (got : List Byte)
  deriving DecidableEq, Repr

/-- What the host concludes (R242, R243, R245, R246). -/
inductive HostEvent where
  /-- The awaited done ack arrived (R243). -/
  | commandOk
  /-- Another frame arrived in its place (`error:firmware error`), or the read was abandoned (R243). -/
  | commandFailed (reply : Option (List Byte))
  /-- Every attempt at a length byte failed: the host warns (R242). -/
  | readAbandoned
  /-- An unsolicited decoder event, for the squash filter (R245). -/
  | decoderEvent (address command : Byte)
  /-- Any other unsolicited frame: logged and ignored (R245). -/
  | ignored (payload : List Byte)
  /-- A short write: a transport error (R241). -/
  | shortWrite
  /-- The host exited (R246). -/
  | exited
  deriving DecidableEq, Repr

/-- The link partner (44_link_partner.md). -/
structure Link where
  /-- Bytes the host has written that have not yet reached the block, oldest first (R67, R241). -/
  wire : List Byte
  /-- A reply is awaited (R243, R244). -/
  awaiting : Bool
  read : HostRead
  /-- What the host has concluded, oldest first. -/
  log : List HostEvent
  deriving DecidableEq, Repr

/-- A move of the link partner (R249). -/
inductive HostMove where
  /-- Write the first `written` bytes of the frame with this payload (R241). -/
  | send (payload : List Byte) (written : Nat)
  /-- One attempt to read a length byte, which may fail or succeed (R242). -/
  | attempt (succeeds : Bool)
  /-- Take one payload byte (R242). -/
  | receive
  /-- Poll the device descriptor (R245). -/
  | poll
  /-- Exit; another host may start (R246). -/
  | exit
  deriving DecidableEq, Repr

/-- Whose step is next (R5, R6). The order is free, so it is data that no rule constrains. -/
inductive Turn where
  /-- The environment delivers an event word (R80). -/
  | event (w : EventWord)
  /-- The pin changes to a level, so many nanoseconds after its previous transition (R53). -/
  | pin (dtNs : Nat) (lvl : Bool)
  /-- The next byte in flight from the host reaches the block as an RXBYTE event (R241). -/
  | deliver
  /-- The consumer takes the next action of its program (R188). -/
  | consumer
  /-- The link partner moves. -/
  | host (m : HostMove)
  deriving DecidableEq, Repr

/-- The machine: the block state of R22 in its four parts, the consumer and the link partner (R5), the
configuration (R8, written by no step) and the order in which the agents move (R6). -/
structure State where
  cfg : Config
  edc : Edc
  rx : Rx
  tx : Tx
  ids : Ids
  con : Consumer
  link : Link
  turns : List Turn
  deriving DecidableEq, Repr

/-- R290, for any configuration: every field of the block at its reset value; no program, no host bytes, no turn. -/
def State.resetWith (c : Config) : State where
  cfg := c
  edc := { dstate := .BEGIN, cnt := 14#4, word := 0#14, edgeEn := true, irrdy := false, diag := .none }
  rx := { phase := .len, len := 0x00#8, cnt := 0x00#8, buf := [], rdy := false, en := true, lenerr := false,
          ovr := false }
  tx := { len := 0x00#8, buf := [], q := [] }
  ids := { gie := false, epend := false, ependT := 0#24, ependL := false, rpend := false, rpendB := 0x00#8,
           tpend := false, evovr := false, sleep := false }
  con := { rdData := 0x00#8, freeCount := 0, prog := [], locals := [], display := [] }
  link := { wire := [], awaiting := false, read := .idle, log := [] }
  turns := []

/-- The machine right after reset, under the test configuration TC1 of R9 (notes/assumptions/2.md). -/
def State.reset : State := State.resetWith Config.tc1

end Sys2Proof.Machine
end

