-- ==== Sys2Proof/Machine/Operands.lean ====
section
/-! DEFINITION. The operand forms: the interval classes, the transition table and the capture count of an edge (40_decoder.md R110, R111, R114; 10_state.md R53), and the register each window offset names (10_state.md R40). -/

namespace Sys2Proof.Machine

/-- R92: the interval classes that reach the table. INVALID never does. -/
inductive Interval where
  | short | long
  deriving DecidableEq, Repr

/-- R23: the code of a decoder state. -/
def DState.code : DState → BitVec 3
  | .BEGIN => 0#3 | .START1 => 1#3 | .MID1 => 2#3 | .MID0 => 3#3 | .START0 => 4#3 | .ERROR => 5#3 | .END => 6#3

/-- R261: the code of a restart cause. -/
def Cause.code : Cause → BitVec 3
  | .none => 0#3 | .invalid => 1#3 | .selfmap => 2#3 | .state => 3#3 | .underflow => 4#3

/-- R29: the code of a framer phase. -/
def RxPhase.code : RxPhase → BitVec 1
  | .len => 0#1 | .data => 1#1

/-- R110: the level the decoder uses. -/
def effectiveLevel (c : Config) (lvl : Bool) : Bool := Bool.xor lvl c.invertLevel

/-- R111: the interval's class; `none` is INVALID. SHORT is tested first. -/
def classify (c : Config) (t : Nat) : Option Interval :=
  if c.shortMin ≤ t ∧ t ≤ c.shortMax then some .short
  else if c.longMin ≤ t ∧ t ≤ c.longMax then some .long
  else none

/-- R114: NEXT(s, e), the event given as its class and effective level. A state the table has no row for maps to
itself; the handler never asks for one (R113). -/
def nextState : DState → Interval → Bool → DState
  | .START1, .short, false => .MID1
  | .START1, .short, true => .START1
  | .START1, .long, false => .START1
  | .START1, .long, true => .START1
  | .MID1, .short, false => .MID1
  | .MID1, .short, true => .START1
  | .MID1, .long, false => .MID1
  | .MID1, .long, true => .MID0
  | .MID0, .short, false => .START0
  | .MID0, .short, true => .MID0
  | .MID0, .long, false => .MID1
  | .MID0, .long, true => .MID0
  | .START0, .short, false => .START0
  | .START0, .short, true => .MID0
  | .START0, .long, false => .START0
  | .START0, .long, true => .START0
  | .BEGIN, _, _ => .BEGIN
  | .ERROR, _, _ => .ERROR
  | .END, _, _ => .END

/-- R53: the tick count the capture timer reports for a time in nanoseconds; it saturates. -/
def captureCount (c : Config) (dtNs : Nat) : Nat := min (dtNs / c.tickNs) (2 ^ c.wTick - 1)

/-- R40: the registers of the consumer window. -/
inductive Reg where
  | cmd | status | irlo | irhi | iraddr | ircmd | irfld | dstat | diag | rxlen | rxcnt | txlen
  | rxbuf (i : Nat)
  | txbuf (i : Nat)
  deriving DecidableEq, Repr

/-- R40: the register at an offset; `none` where the offset is reserved. -/
def regAt (c : Config) (off : Offset) : Option Reg :=
  let o := off.toNat
  if o = 0x00 then some .cmd
  else if o = 0x01 then some .status
  else if o = 0x02 then some .irlo
  else if o = 0x03 then some .irhi
  else if o = 0x04 then some .iraddr
  else if o = 0x05 then some .ircmd
  else if o = 0x06 then some .irfld
  else if o = 0x07 then some .dstat
  else if o = 0x08 then some .diag
  else if o = 0x09 then some .rxlen
  else if o = 0x0A then some .rxcnt
  else if o = 0x0B then some .txlen
  else if 0x40 ≤ o ∧ o ≤ 0x40 + c.cap then some (.rxbuf (o - 0x40))
  else if 0x60 ≤ o ∧ o < 0x60 + c.cap then some (.txbuf (o - 0x60))
  else none

/-- R60: the offset a byte address of the consumer's own address space falls on, if the window holds it. -/
def windowOffset (addr : Nat) : Option Offset :=
  if Config.winBase ≤ addr ∧ addr < Config.winBase + 128 then some (BitVec.ofNat 7 (addr - Config.winBase)) else none

end Sys2Proof.Machine
end

