-- ==== Sys2Proof/Machine/Flags.lean ====
section
/-! DEFINITION. The status views of the window: STATUS (10_state.md R42), the views of WORD (R43, R44), DSTAT (R45) and DIAG (R46). -/

namespace Sys2Proof.Machine

/-- R42: bit 0 IRRDY, 1 RXRDY, 2 GIE, 3 EDGE_EN, 4 RX_EN, 5 LENERR, 6 RXOVR, 7 EVOVR. -/
def statusByte (s : State) : Byte :=
  BitVec.ofBool s.ids.evovr ++ BitVec.ofBool s.rx.ovr ++ BitVec.ofBool s.rx.lenerr ++ BitVec.ofBool s.rx.en
    ++ BitVec.ofBool s.edc.edgeEn ++ BitVec.ofBool s.ids.gie ++ BitVec.ofBool s.rx.rdy ++ BitVec.ofBool s.edc.irrdy

/-- R43: `WORD[7:0]`. -/
def irloByte (w : BitVec 14) : Byte := w.extractLsb' 0 8
/-- R43: `0b00 ++ WORD[13:8]`. -/
def irhiByte (w : BitVec 14) : Byte := 0b00#2 ++ w.extractLsb' 8 6
/-- R44: `0b000 ++ WORD[10:6]`. -/
def iraddrByte (w : BitVec 14) : Byte := 0b000#3 ++ w.extractLsb' 6 5
/-- R44: `0b00 ++ WORD[5:0]`. -/
def ircmdByte (w : BitVec 14) : Byte := 0b00#2 ++ w.extractLsb' 0 6
/-- R44: `0b00000 ++ WORD[13:12] ++ WORD[11]`. -/
def irfldByte (w : BitVec 14) : Byte := 0b00000#5 ++ w.extractLsb' 12 2 ++ w.extractLsb' 11 1
/-- R45: `CNT ++ RXPHASE ++ DSTATE`. -/
def dstatByte (s : State) : Byte := s.edc.cnt ++ s.rx.phase.code ++ s.edc.dstate.code
/-- R46: `0b00000 ++ DIAG`. -/
def diagByte (s : State) : Byte := 0b00000#5 ++ s.edc.diag.code

end Sys2Proof.Machine
end

