-- ==== Sys2Proof/Machine/Ops.lean ====
section
/-! DEFINITION. The named operations: the packet buffers, the steps of the decoder (40_decoder.md R112, R115 to R117, R119) and of the framer (41_framer.md R141 to R145), and entering and leaving a handler (42_dispatcher.md R171 to R175, 60_exceptions.md R266, R267). -/

namespace Sys2Proof.Machine

/-! ### Packet buffers (R32, R35) -/

/-- The byte at an index; an index that is not listed reads 0x00 (R290). -/
def Memory.read : Memory → Nat → Byte
  | [], _ => 0x00#8
  | (k, v) :: m, i => if k = i then v else Memory.read m i

/-- Writes one byte and keeps the canonical form: strictly rising indices, no zero byte. -/
def Memory.write : Memory → Nat → Byte → Memory
  | [], i, b => if b = 0x00#8 then [] else [(i, b)]
  | (k, v) :: m, i, b =>
    if i = k then (if b = 0x00#8 then m else (i, b) :: m)
    else if i < k then (if b = 0x00#8 then (k, v) :: m else (i, b) :: (k, v) :: m)
    else (k, v) :: Memory.write m i b

/-- Every index of the cells is at least `lo`, they rise strictly, and no byte is zero. -/
def Memory.wfFrom : Nat → Memory → Bool
  | _, [] => true
  | lo, (k, v) :: m => decide (lo ≤ k) && decide (v ≠ 0x00#8) && Memory.wfFrom (k + 1) m

/-- The canonical form of a buffer. -/
def Memory.wf (m : Memory) : Bool := Memory.wfFrom 0 m

/-- The first `n` bytes of a buffer, in order. -/
def Memory.take (m : Memory) (n : Nat) : List Byte := (List.range n).map (fun i => Memory.read m i)

/-! ### Decoder unit -/

/-- R112: the edge is the leading logical 1 of a frame, whatever its class and level. -/
def Edc.leading (e : Edc) : Edc :=
  let c := e.cnt - 1#4
  { e with cnt := c, word := e.word ||| (1#14 <<< c.toNat), dstate := .MID1 }

/-- R116: the in-progress frame is aborted and the same edge is handled again as a leading edge. -/
def Edc.restart (cause : Cause) (e : Edc) : Edc :=
  Edc.leading { e with diag := cause, dstate := .BEGIN, cnt := 14#4, word := 0#14 }

/-- R115: one bit is taken; MID1 sets it and MID0 leaves it 0. -/
def Edc.takeBit (n : DState) (e : Edc) : Edc :=
  let c := e.cnt - 1#4
  { e with cnt := c, word := if n = .MID1 then e.word ||| (1#14 <<< c.toNat) else e.word }

/-- R117, after the state is updated to `n`: with CNT = 0, START1 and MID0 complete the frame. -/
def Edc.settle (n : DState) (e : Edc) : Edc :=
  if e.cnt = 0#4 ∧ (n = .START1 ∨ n = .MID0) then { e with dstate := .END, edgeEn := false, irrdy := true }
  else { e with dstate := n }

/-- R119: the EDGE handler, its checks in the spec's order. -/
def Edc.edge (c : Config) (lvl : Bool) (t : Nat) (e : Edc) : Edc :=
  if e.dstate = .BEGIN then e.leading
  else if DState.START0.code.toNat < e.dstate.code.toNat then e.restart .state
  else match classify c t with
    | none => e.restart .invalid
    | some k =>
      let n := nextState e.dstate k (effectiveLevel c lvl)
      if n = e.dstate then e.restart .selfmap
      else if n = .MID0 ∨ n = .MID1 then
        if e.cnt = 0#4 then e.restart .underflow else (e.takeBit n).settle n
      else e.settle n

/-- R120: the decoder's `rearm()`. -/
def Edc.rearm (e : Edc) : Edc :=
  { e with cnt := 14#4, word := 0#14, dstate := .BEGIN, edgeEn := true, irrdy := false }

/-! ### Framer unit, receive side -/

/-- R142, R143: a payload byte is stored; the last one is followed by the terminator and fills the mailbox. -/
def Rx.store (b : Byte) (r : Rx) : Rx :=
  let buf := Memory.write r.buf r.cnt.toNat b
  let cnt := r.cnt + 1#8
  if cnt = r.len then { r with buf := Memory.write buf r.len.toNat 0x00#8, cnt := cnt, rdy := true, en := false }
  else { r with buf := buf, cnt := cnt }

/-- R145: the RXBYTE handler: a length byte (R141, R144) or a payload byte (R142, R143). -/
def Rx.byte (c : Config) (b : Byte) (r : Rx) : Rx :=
  match r.phase with
  | .len => if 1 ≤ b.toNat ∧ b.toNat ≤ c.cap then { r with len := b, cnt := 0x00#8, phase := .data }
            else { r with lenerr := true }
  | .data => r.store b

/-- R146: the framer's `rearm()`. RXBUF is not cleared. -/
def Rx.rearm (r : Rx) : Rx :=
  { r with phase := .len, len := 0x00#8, cnt := 0x00#8, rdy := false, en := true, lenerr := false, ovr := false }

/-! ### Framer unit, transmit side -/

/-- R148: the length byte and the payload join TXQ in one step. -/
def Tx.send (t : Tx) : Tx := { t with q := t.q ++ t.len :: Memory.take t.buf t.len.toNat }

/-! ### Dispatcher -/

/-- R170: an event of one of the three sources. -/
inductive Event where
  | edge (lvl : Bool) (t : Ticks)
  | rxbyte (b : Byte)
  | tick
  deriving DecidableEq, Repr

/-- R172: the depth-one latch of the event's source; the older event is kept, ticks coalesce. -/
def Ids.latch (ev : Event) (d : Ids) : Ids :=
  match ev with
  | .edge lvl t => if d.epend then { d with evovr := true } else { d with epend := true, ependT := t, ependL := lvl }
  | .rxbyte b => if d.rpend then { d with evovr := true } else { d with rpend := true, rpendB := b }
  | .tick => { d with tpend := true }

/-- R174: the consumer is awake. -/
def State.wake (s : State) : State := { s with ids := { s.ids with sleep := false } }

/-- R174, R266, R267: the one way a handler is entered and left. It runs on the current state to completion; an
edge or a tick then wakes the consumer, and a byte does if it completed a frame. Nothing is saved or restored, and
GIE and the source's own enable are not changed. -/
def handle (ev : Event) (s : State) : State :=
  match ev with
  | .edge lvl t => State.wake { s with edc := s.edc.edge s.cfg lvl t.toNat }
  | .rxbyte b =>
    let s' := { s with rx := s.rx.byte s.cfg b }
    if s'.rx.rdy then s'.wake else s'
  | .tick => s.wake

/-- R171: is the event's source enabled? The tick always is (R170). -/
def sourceEnabled (ev : Event) (s : State) : Bool :=
  match ev with
  | .edge _ _ => s.edc.edgeEn
  | .rxbyte _ => s.rx.en
  | .tick => true

/-- R171: an event at a disabled source is discarded; a discarded byte is recorded in RXOVR. -/
def discardEvent (ev : Event) (s : State) : State :=
  match ev with
  | .rxbyte _ => { s with rx := { s.rx with ovr := true } }
  | .edge _ _ | .tick => s

/-- R171 to R173: an event arrives. -/
def arrive (ev : Event) (s : State) : State :=
  if sourceEnabled ev s then
    if s.ids.gie then handle ev s else { s with ids := s.ids.latch ev }
  else discardEvent ev s

/-- R175: one latch is emptied and its event handled; only the flag is cleared. -/
def drainEdge (s : State) : State :=
  if s.ids.epend then handle (.edge s.ids.ependL s.ids.ependT) { s with ids := { s.ids with epend := false } } else s
def drainByte (s : State) : State :=
  if s.ids.rpend then handle (.rxbyte s.ids.rpendB) { s with ids := { s.ids with rpend := false } } else s
def drainTick (s : State) : State :=
  if s.ids.tpend then handle .tick { s with ids := { s.ids with tpend := false } } else s

/-- R175, R264: EDGE, then RXBYTE, then TICK. -/
def drain (s : State) : State := drainTick (drainByte (drainEdge s))

/-! ### The consumer's side of a step -/

/-- What a register reads (R41 to R50). -/
def regValue (s : State) : Reg → Byte
  | .cmd => 0x00#8
  | .status => statusByte s
  | .irlo => irloByte s.edc.word
  | .irhi => irhiByte s.edc.word
  | .iraddr => iraddrByte s.edc.word
  | .ircmd => ircmdByte s.edc.word
  | .irfld => irfldByte s.edc.word
  | .dstat => dstatByte s
  | .diag => diagByte s
  | .rxlen => s.rx.len
  | .rxcnt => s.rx.cnt
  | .txlen => s.tx.len
  | .rxbuf i => Memory.read s.rx.buf i
  | .txbuf i => Memory.read s.tx.buf i

/-- R65, I7, I8, I9: the read gives any value: a mailbox value while its ready flag is 0, or a byte of RXBUF past
the completed packet's terminator. -/
def readsAnyValue (s : State) : Reg → Bool
  | .irlo | .irhi | .iraddr | .ircmd | .irfld => !s.edc.irrdy
  | .rxlen | .rxcnt => !s.rx.rdy
  | .rxbuf i => !s.rx.rdy || decide (s.rx.len.toNat < i)
  | .cmd | .status | .dstat | .diag | .txlen | .txbuf _ => false

/-- R180: the byte a read returns reaches the consumer; no register changes. -/
def readRegister (r : Reg) (s : State) : State :=
  if readsAnyValue s r then
    { s with con := { s.con with rdData := Config.freeByte s.con.freeCount, freeCount := s.con.freeCount + 1 } }
  else { s with con := { s.con with rdData := regValue s r } }

/-- The consumer's program goes on with these actions first. -/
def State.schedule (acts : List ConsumerAct) (s : State) : State :=
  { s with con := { s.con with prog := acts ++ s.con.prog } }

end Sys2Proof.Machine
end

