-- ==== Sys2Proof/Machine/Commands.lean ====
section
/-! DEFINITION. The meanings of the seven commands (30_encoding.md R87, 42_dispatcher.md R182 to R186). -/

namespace Sys2Proof.Machine

/-- CMD IR_REARM (R120): the decoder listens again and a latched edge is dropped. -/
def execCmdIrRearm (s : State) : Host.Outcome State Fault Refusal :=
  .next { s with edc := s.edc.rearm, ids := { s.ids with epend := false } }

/-- CMD RX_REARM (R146): the framer awaits a length byte and a latched byte is dropped. -/
def execCmdRxRearm (s : State) : Host.Outcome State Fault Refusal :=
  .next { s with rx := s.rx.rearm, ids := { s.ids with rpend := false } }

/-- CMD TX_SEND (R148). An illegal TXLEN is refused. -/
def execCmdTxSend (s : State) : Host.Outcome State Fault Refusal :=
  if 1 ≤ s.tx.len.toNat ∧ s.tx.len.toNat ≤ s.cfg.cap then .next { s with tx := s.tx.send }
  else .refused .illegalTxLength

/-- CMD MASK (R183). -/
def execCmdMask (s : State) : Host.Outcome State Fault Refusal := .next { s with ids := { s.ids with gie := false } }

/-- CMD UNMASK (R184): unmask and drain in one step. -/
def execCmdUnmask (s : State) : Host.Outcome State Fault Refusal :=
  .next (drain { s with ids := { s.ids with gie := true } })

/-- CMD WAIT (R185): unmask, sleep and drain in one step. -/
def execCmdWait (s : State) : Host.Outcome State Fault Refusal :=
  .next (drain { s with ids := { s.ids with gie := true, sleep := true } })

/-- CMD CLRDIAG (R186): EVOVR and DIAG only. -/
def execCmdClrdiag (s : State) : Host.Outcome State Fault Refusal :=
  .next { s with edc := { s.edc with diag := .none }, ids := { s.ids with evovr := false } }

end Sys2Proof.Machine
end

