-- ==== Sys2Proof/Machine/Events.lean ====
section
/-! DEFINITION. The meanings of the three events: EDGE, RXBYTE and TICK (42_dispatcher.md R170 to R177). -/

namespace Sys2Proof.Machine

/-- EDGE (R81, R119, R171 to R174). A count that does not fit W_TICK is a reserved event word (R81, R84). -/
def execEdge (lvl : Bool) (ticks : Ticks) (s : State) : Host.Outcome State Fault Refusal :=
  if ticks.toNat < 2 ^ s.cfg.wTick then .next (arrive (.edge lvl ticks) s) else .refused .reservedEvent

/-- RXBYTE (R82, R145, R171 to R174). -/
def execRxbyte (b : Byte) (s : State) : Host.Outcome State Fault Refusal := .next (arrive (.rxbyte b) s)

/-- TICK (R83, R177, R171 to R174): no state of the block changes but SLEEP. -/
def execTick (s : State) : Host.Outcome State Fault Refusal := .next (arrive .tick s)

end Sys2Proof.Machine
end

