-- ==== Sys2Proof/Syntax.lean ====
section
/-! DEFINITION. One constructor per row of spec/opcode_table.json: events (R80), consumer operations (R85 to R87) and frames (R90). -/

namespace Sys2Proof

/-- The operations of the irpanel device core (00_scope.md R1: irpanel-core-ops v1). -/
inductive Instr where
  /-- EDGE (R81, R119): the pin's level after the transition and the ticks since the one before. -/
  | edge (lvl : Bool) (ticks : Ticks)
  /-- RXBYTE (R82, R145): one byte from the link partner. -/
  | rxbyte (b : Byte)
  /-- TICK (R83, R177): one period of the timer tick. -/
  | tick
  /-- RD (R86, R180): read the register at a window offset. -/
  | rd (off : Offset)
  /-- WR TXLEN (R86, R181). -/
  | wrTxlen (v : Byte)
  /-- WR TXBUF[i] (R86, R181): the offset is 0x60 + i. -/
  | wrTxbuf (i : BitVec 5) (v : Byte)
  /-- CMD IR_REARM (R87, R120). -/
  | cmdIrRearm
  /-- CMD RX_REARM (R87, R146). -/
  | cmdRxRearm
  /-- CMD TX_SEND (R87, R148). -/
  | cmdTxSend
  /-- CMD MASK (R87, R183). -/
  | cmdMask
  /-- CMD UNMASK (R87, R184). -/
  | cmdUnmask
  /-- CMD WAIT (R87, R185). -/
  | cmdWait
  /-- CMD CLRDIAG (R87, R186). -/
  | cmdClrdiag
  /-- Frame `c`, host to device: clear (R211). -/
  | frameClear
  /-- Frame `d`, host to device: dim (R212). -/
  | frameDim (level : Byte)
  /-- Frame `h`, host to device: home (R213). -/
  | frameHome
  /-- Frame `g`, host to device: goto column x, row y (R214). -/
  | frameGoto (x y : Byte)
  /-- Frame `p`, host to device: print (R215). -/
  | framePrint (text : List Byte)
  /-- Frame `r`, host to device: raw passthrough (R216). -/
  | frameRaw (byte isChar wait : Byte)
  /-- Frame `i`, device to host: decoder event (R217). -/
  | frameDecoderEvent (address command : Byte)
  /-- Frame `d`, device to host: done, the acknowledgement (R218). -/
  | frameDone
  deriving DecidableEq, Repr

end Sys2Proof
end

