-- ==== Sys2Proof/WellFormed.lean ====
section
/-! DEFINITION. Which instructions the spec admits under a configuration: tick counts that fit W_TICK (R81), offsets the map of R40 names, frames that fit CAP (R89). -/

namespace Sys2Proof

/-- R40, R51: the offset names a register that can be read. -/
def readableOffset (c : Config) (off : Offset) : Bool :=
  off.toNat ≤ 0x0B || (0x40 ≤ off.toNat && off.toNat ≤ 0x40 + c.cap)
    || (0x60 ≤ off.toNat && off.toNat < 0x60 + c.cap)

/-- The instruction is one the spec defines under configuration `c`: not a reserved event word (R81, R84), not a
reserved access (R51), not a frame longer than the packet buffer (R89). -/
def Instr.wf (c : Config) : Instr → Bool
  | .edge _ ticks => ticks.toNat < 2 ^ c.wTick
  | .rd off => readableOffset c off
  | .wrTxbuf i _ => i.toNat < c.cap
  | .frameClear | .frameHome | .frameDone => 1 ≤ c.cap
  | .frameDim _ => 2 ≤ c.cap
  | .frameGoto _ _ | .frameDecoderEvent _ _ => 3 ≤ c.cap
  | .frameRaw _ _ _ => 4 ≤ c.cap
  | .framePrint text => text.length + 1 ≤ c.cap
  | .rxbyte _ | .tick | .wrTxlen _ | .cmdIrRearm | .cmdRxRearm | .cmdTxSend | .cmdMask | .cmdUnmask | .cmdWait
  | .cmdClrdiag => true

end Sys2Proof
end

