-- ==== Sys2Proof/Decode.lean ====
section
/-! DEFINITION. The encodings of 30_encoding.md: event words (R80 to R84), access words (R85 to R88), frames (R89 to R91). The decoder is total and refuses by name; the encoder follows it. -/

namespace Sys2Proof

/-- What reaches the device core, by the channel it comes in on: an event word, an access word, or a frame
`L ++ P` in one of the two directions. The direction is what tells the two `d` frames apart (R219). -/
inductive Encoded where
  | event (w : EventWord)
  | access (w : AccessWord)
  | frameIn (bytes : List Byte)
  | frameOut (bytes : List Byte)
  deriving DecidableEq, Repr

/-- Why a word or a frame has no instruction (R95). -/
inductive DecodeError where
  /-- R84: a reserved kind, or a non-zero bit outside the fields. -/
  | reservedEvent
  /-- R51: a write to an offset that is read-only or reserved. -/
  | reservedAccess
  /-- R88: a write of 0x00 or 0x08 to 0xFF to CMD. -/
  | reservedCommand
  /-- R90, R222: the opcode and length are no row of this direction. -/
  | unknownFrame
  deriving DecidableEq, Repr

/-! The opcode bytes P[0] of R90, in one place (93_implementation_defined.md K1: the ASCII codes). -/

abbrev opClear : Byte := 0x63#8
abbrev opDim : Byte := 0x64#8
abbrev opHome : Byte := 0x68#8
abbrev opGoto : Byte := 0x67#8
abbrev opPrint : Byte := 0x70#8
abbrev opRaw : Byte := 0x72#8
abbrev opEvent : Byte := 0x69#8
abbrev opDone : Byte := 0x64#8

/-- R80 to R84. -/
def decodeEvent (w : EventWord) : Except DecodeError Instr :=
  let kind := w.extractLsb' 28 4
  if kind = 0x1#4 then
    if w.extractLsb' 25 3 = 0#3 then .ok (.edge (w.getLsbD 24) (w.extractLsb' 0 24)) else .error .reservedEvent
  else if kind = 0x2#4 then
    if w.extractLsb' 8 20 = 0#20 then .ok (.rxbyte (w.extractLsb' 0 8)) else .error .reservedEvent
  else if kind = 0x3#4 then
    if w.extractLsb' 0 28 = 0#28 then .ok .tick else .error .reservedEvent
  else .error .reservedEvent

/-- R87, R88, R182: the command code. -/
def decodeCommand (code : Byte) : Except DecodeError Instr :=
  if code = 0x01#8 then .ok .cmdIrRearm
  else if code = 0x02#8 then .ok .cmdRxRearm
  else if code = 0x03#8 then .ok .cmdTxSend
  else if code = 0x04#8 then .ok .cmdMask
  else if code = 0x05#8 then .ok .cmdUnmask
  else if code = 0x06#8 then .ok .cmdWait
  else if code = 0x07#8 then .ok .cmdClrdiag
  else .error .reservedCommand

/-- R85, R86: `A[15]` is the direction, `A[14:8]` the offset, `A[7:0]` the data, which a read ignores. -/
def decodeAccess (w : AccessWord) : Except DecodeError Instr :=
  let off : Offset := w.extractLsb' 8 7
  let data : Byte := w.extractLsb' 0 8
  if w.getLsbD 15 = false then .ok (.rd off)
  else if off = 0x00#7 then decodeCommand data
  else if off = 0x0B#7 then .ok (.wrTxlen data)
  else if off.extractLsb' 5 2 = 0b11#2 then .ok (.wrTxbuf (off.extractLsb' 0 5) data)
  else .error .reservedAccess

/-- R90: the payload `P` of a frame that travels from host to device. -/
def decodePayloadIn : List Byte → Except DecodeError Instr
  | [] => .error .unknownFrame
  | op :: rest =>
    if op = opPrint then .ok (.framePrint rest)
    else match rest with
      | [] => if op = opClear then .ok .frameClear
              else if op = opHome then .ok .frameHome else .error .unknownFrame
      | [a] => if op = opDim then .ok (.frameDim a) else .error .unknownFrame
      | [a, b] => if op = opGoto then .ok (.frameGoto a b) else .error .unknownFrame
      | [a, b, c] => if op = opRaw then .ok (.frameRaw a b c) else .error .unknownFrame
      | _ :: _ :: _ :: _ :: _ => .error .unknownFrame

/-- R90: the payload `P` of a frame that travels from device to host. -/
def decodePayloadOut : List Byte → Except DecodeError Instr
  | [op] => if op = opDone then .ok .frameDone else .error .unknownFrame
  | [op, a, b] => if op = opEvent then .ok (.frameDecoderEvent a b) else .error .unknownFrame
  | _ => .error .unknownFrame

/-- R89: a frame is its length byte and exactly that many payload bytes; `payload` reads the payload. -/
def decodeFrame (payload : List Byte → Except DecodeError Instr) : List Byte → Except DecodeError Instr
  | [] => .error .unknownFrame
  | l :: p => if l.toNat = p.length then payload p else .error .unknownFrame

/-- The decoder: total on every word and every byte string, of either direction. -/
def decode : Encoded → Except DecodeError Instr
  | .event w => decodeEvent w
  | .access w => decodeAccess w
  | .frameIn bytes => decodeFrame decodePayloadIn bytes
  | .frameOut bytes => decodeFrame decodePayloadOut bytes

/-- R89: a payload behind its length byte. -/
def frameBytes (p : List Byte) : List Byte := BitVec.ofNat 8 p.length :: p

/-- R81 to R83, with the kind in the top four bits and unnamed bits zero. -/
def encodeEdge (lvl : Bool) (ticks : Ticks) : EventWord := 0x1#4 ++ 0#3 ++ BitVec.ofBool lvl ++ ticks
def encodeRxbyte (b : Byte) : EventWord := 0x2#4 ++ 0#20 ++ b
def encodeTick : EventWord := 0x30000000#32

/-- R86: `RD off`; an encoder writes the data byte as 0 (R85). -/
def encodeRead (off : Offset) : AccessWord := 0#1 ++ off ++ 0x00#8
/-- R86: `WR off, v`. -/
def encodeWrite (off : Offset) (v : Byte) : AccessWord := 1#1 ++ off ++ v
/-- R86: `CMD code` is a write to offset 0x00. -/
def encodeCommand (code : Byte) : AccessWord := encodeWrite 0x00#7 code
/-- R40: TXBUF[i] is at offset 0x60 + i. -/
def encodeWriteTxbuf (i : BitVec 5) (v : Byte) : AccessWord := encodeWrite (0b11#2 ++ i) v

/-- The encoder, from the same tables (R80 to R91). -/
def encode : Instr → Encoded
  | .edge lvl ticks => .event (encodeEdge lvl ticks)
  | .rxbyte b => .event (encodeRxbyte b)
  | .tick => .event encodeTick
  | .rd off => .access (encodeRead off)
  | .wrTxlen v => .access (encodeWrite 0x0B#7 v)
  | .wrTxbuf i v => .access (encodeWriteTxbuf i v)
  | .cmdIrRearm => .access (encodeCommand 0x01#8)
  | .cmdRxRearm => .access (encodeCommand 0x02#8)
  | .cmdTxSend => .access (encodeCommand 0x03#8)
  | .cmdMask => .access (encodeCommand 0x04#8)
  | .cmdUnmask => .access (encodeCommand 0x05#8)
  | .cmdWait => .access (encodeCommand 0x06#8)
  | .cmdClrdiag => .access (encodeCommand 0x07#8)
  | .frameClear => .frameIn (frameBytes [opClear])
  | .frameDim level => .frameIn (frameBytes [opDim, level])
  | .frameHome => .frameIn (frameBytes [opHome])
  | .frameGoto x y => .frameIn (frameBytes [opGoto, x, y])
  | .framePrint text => .frameIn (frameBytes (opPrint :: text))
  | .frameRaw byte isChar wait => .frameIn (frameBytes [opRaw, byte, isChar, wait])
  | .frameDecoderEvent address command => .frameOut (frameBytes [opEvent, address, command])
  | .frameDone => .frameOut (frameBytes [opDone])

/-- The frame whose length byte is `l` and opcode `op`, every further payload byte zero: what a 16-bit frame
header of the opcode table stands for when the operand bytes it has no bits for are zero. -/
def frameOfHeader (l op : Byte) : List Byte := l :: op :: List.replicate (l.toNat - 1) 0x00#8

/-- The 16-bit rows of the opcode table hold two kinds of word, access words and frame headers, and their bits
overlap (0x0163 is the header of frame `c` and also `RD STATUS` with a data byte that a read ignores). A header of
R90 with `L ≤ CAP` of TC1 is taken as the frame, any other word as an access word (notes/assumptions/10.md,
DESIGN CHOICE). On the channels themselves no such choice arises. -/
def encodedOfTableWord16 (w : BitVec 16) : Encoded :=
  let frame := frameOfHeader (w.extractLsb' 8 8) (w.extractLsb' 0 8)
  if (w.extractLsb' 8 8).toNat ≤ Config.tc1.cap then
    match decodeFrame decodePayloadIn frame, decodeFrame decodePayloadOut frame with
    | .ok _, _ => .frameIn frame
    | .error _, .ok _ => .frameOut frame
    | .error _, .error _ => .access w
  else .access w

/-- What the channel carries for an instruction of `nbits` bits `w`, numbered as the opcode table numbers them. -/
def encodedOfTableWord (nbits w : Nat) : Option Encoded :=
  if nbits = 32 then some (.event (BitVec.ofNat 32 w))
  else if nbits = 16 then some (encodedOfTableWord16 (BitVec.ofNat 16 w))
  else none

end Sys2Proof

/-- The instruction the decoder reads from a word of the opcode table. -/
def Sys2Proof.decodeTableWord (nbits w : Nat) : Option Sys2Proof.Instr :=
  match Sys2Proof.encodedOfTableWord nbits w with
  | some e => (Sys2Proof.decode e).toOption
  | none => none
end

