-- ==== Sys2Proof/Machine/Frames.lean ====
section
/-! DEFINITION. The meanings of the eight frames: the consumer's duty for each (43_payloads.md R211 to R220), as the operations the consumer issues next, each of them an atomic step of its own (R6, R96, R223). -/

namespace Sys2Proof.Machine

/-- R96: `WR TXBUF[i], b` for each payload byte, from index `i` on. -/
def stageActs : Nat → List Byte → List ConsumerAct
  | _, [] => []
  | i, b :: p => .access (encodeWriteTxbuf (BitVec.ofNat 5 i) b) :: stageActs (i + 1) p

/-- R96: SENDFRAME: stage the payload, write its length, TX_SEND. -/
def sendFrameActs (p : List Byte) : List ConsumerAct :=
  stageActs 0 p ++ [.access (encodeWrite 0x0B#7 (BitVec.ofNat 8 p.length)), .access (encodeCommand 0x03#8)]

/-- R218: the done ack. -/
def ackActs : List ConsumerAct := sendFrameActs [opDone]

/-- R220, R223: RX_REARM, UNMASK, the frame's action as driver calls, then exactly one done ack. -/
def dutyActs (calls : List DriverCall) : List ConsumerAct :=
  [.access (encodeCommand 0x02#8), .access (encodeCommand 0x05#8)] ++ calls.map .driver ++ ackActs

/-- The consumer does its duty for a frame of `len` payload bytes. No mailbox holds a longer one than CAP. -/
def takeFrame (len : Nat) (calls : List DriverCall) (s : State) : Host.Outcome State Fault Refusal :=
  if len ≤ s.cfg.cap then .next (s.schedule (dutyActs calls)) else .refused .frameTooLong

/-- The consumer sends a frame. TX_SEND sends none longer than CAP (R148). -/
def sendFrame (p : List Byte) (s : State) : Host.Outcome State Fault Refusal :=
  if p.length ≤ s.cfg.cap then .next (s.schedule (sendFrameActs p)) else .refused .frameTooLong

/-- R215, R302: the text ends at its first zero byte, and an empty text prints nothing. -/
def printCalls (text : List Byte) : List DriverCall :=
  match text.takeWhile (fun b => decide (b ≠ 0x00#8)) with
  | [] => []
  | b :: rest => [.print (b :: rest)]

/-- Frame c (R211). -/
def execFrameClear (s : State) : Host.Outcome State Fault Refusal := takeFrame 1 [.clear] s

/-- Frame d, dim (R212). -/
def execFrameDim (level : Byte) (s : State) : Host.Outcome State Fault Refusal := takeFrame 2 [.dim level] s

/-- Frame h (R213). -/
def execFrameHome (s : State) : Host.Outcome State Fault Refusal := takeFrame 1 [.home] s

/-- Frame g (R214): the values are passed on unchecked. -/
def execFrameGoto (x y : Byte) (s : State) : Host.Outcome State Fault Refusal := takeFrame 3 [.goto x y] s

/-- Frame p (R215). -/
def execFramePrint (text : List Byte) (s : State) : Host.Outcome State Fault Refusal :=
  takeFrame (text.length + 1) (printCalls text) s

/-- Frame r (R216): `isChar` is true if it is not zero. -/
def execFrameRaw (byte isChar wait : Byte) (s : State) : Host.Outcome State Fault Refusal :=
  takeFrame 4 [.sendCommand byte (decide (isChar ≠ 0x00#8)) wait] s

/-- Frame i (R217, R221): the consumer sends `i`, the address and the command. -/
def execFrameDecoderEvent (address command : Byte) (s : State) : Host.Outcome State Fault Refusal :=
  sendFrame [opEvent, address, command] s

/-- Frame d, done (R218). -/
def execFrameDone (s : State) : Host.Outcome State Fault Refusal := sendFrame [opDone] s

end Sys2Proof.Machine
end

