-- ==== Sys2Proof/Machine/Window.lean ====
section
/-! DEFINITION. The meanings of the register accesses: RD, WR TXLEN and WR TXBUF (42_dispatcher.md R180, R181). -/

namespace Sys2Proof.Machine

/-- RD (R180). A reserved offset is refused (R51). -/
def execRd (off : Offset) (s : State) : Host.Outcome State Fault Refusal :=
  match regAt s.cfg off with
  | some r => .next (readRegister r s)
  | none => .refused .reservedAccess

/-- WR TXLEN (R48, R181): any byte value can be stored. -/
def execWrTxlen (v : Byte) (s : State) : Host.Outcome State Fault Refusal :=
  .next { s with tx := { s.tx with len := v } }

/-- WR TXBUF[i] (R50, R181). An index past the buffer is a reserved offset and refused (R51). -/
def execWrTxbuf (i : BitVec 5) (v : Byte) (s : State) : Host.Outcome State Fault Refusal :=
  if i.toNat < s.cfg.cap then .next { s with tx := { s.tx with buf := Memory.write s.tx.buf i.toNat v } }
  else .refused .reservedAccess

end Sys2Proof.Machine
end

