-- ==== Sys2Proof/Machine/Dispatch.lean ====
section
/-! DEFINITION. exec: one arm per constructor of Instr, each one direct call of that instruction's meaning. -/

namespace Sys2Proof.Machine

def exec (i : Instr) (s : State) : Host.Outcome State Fault Refusal :=
  match i with
  | .edge lvl ticks => Sys2Proof.Machine.execEdge lvl ticks s
  | .rxbyte b => Sys2Proof.Machine.execRxbyte b s
  | .tick => Sys2Proof.Machine.execTick s
  | .rd off => Sys2Proof.Machine.execRd off s
  | .wrTxlen v => Sys2Proof.Machine.execWrTxlen v s
  | .wrTxbuf idx v => Sys2Proof.Machine.execWrTxbuf idx v s
  | .cmdIrRearm => Sys2Proof.Machine.execCmdIrRearm s
  | .cmdRxRearm => Sys2Proof.Machine.execCmdRxRearm s
  | .cmdTxSend => Sys2Proof.Machine.execCmdTxSend s
  | .cmdMask => Sys2Proof.Machine.execCmdMask s
  | .cmdUnmask => Sys2Proof.Machine.execCmdUnmask s
  | .cmdWait => Sys2Proof.Machine.execCmdWait s
  | .cmdClrdiag => Sys2Proof.Machine.execCmdClrdiag s
  | .frameClear => Sys2Proof.Machine.execFrameClear s
  | .frameDim level => Sys2Proof.Machine.execFrameDim level s
  | .frameHome => Sys2Proof.Machine.execFrameHome s
  | .frameGoto x y => Sys2Proof.Machine.execFrameGoto x y s
  | .framePrint text => Sys2Proof.Machine.execFramePrint text s
  | .frameRaw byte isChar wait => Sys2Proof.Machine.execFrameRaw byte isChar wait s
  | .frameDecoderEvent address command => Sys2Proof.Machine.execFrameDecoderEvent address command s
  | .frameDone => Sys2Proof.Machine.execFrameDone s

end Sys2Proof.Machine
end

