-- ==== Sys2Proof/Machine/Consumer.lean ====
section
/-! DEFINITION. The consumer's program: its actions between register accesses, and the reference consumer (43_payloads.md R222, R223; 70_reset_and_hazards.md R292). -/

namespace Sys2Proof.Machine

/-- What an agent's turn comes to. -/
inductive Fetched where
  /-- The turn ends here; no operation of the block runs. -/
  | done (s : State)
  /-- This operation reaches the block. -/
  | run (e : Encoded) (s : State)
  /-- The model gives the turn no meaning. -/
  | stop (r : Refusal)
  deriving DecidableEq, Repr

/-- R223, from the label `loop`: mask, read STATUS, branch. -/
def loopActs : List ConsumerAct :=
  [.access (encodeCommand 0x04#8), .access (encodeRead 0x01#7), .branchStatus]

/-- R223, `if st.RXRDY`: read the length. -/
def packetActs : List ConsumerAct := [.access (encodeRead 0x09#7), .readPayload]

/-- R223, `if st.IRRDY`: read the address and the command. -/
def irActs : List ConsumerAct :=
  [.access (encodeRead 0x04#7), .keep, .access (encodeRead 0x05#7), .keep, .takeIr]

/-- R223, otherwise: unmask and sleep in one step. -/
def waitActs : List ConsumerAct := [.access (encodeCommand 0x06#8), .loop]

/-- R223: the branch on the STATUS byte read: the packet mailbox before the IR mailbox. -/
def branchActs (status : Byte) : List ConsumerAct :=
  if status.getLsbD 1 then packetActs else if status.getLsbD 0 then irActs else waitActs

/-- R223: `RD RXBUF[i]` for `n` bytes from offset `off` on, each kept. -/
def readPayloadActs : Nat → Nat → List ConsumerAct
  | _, 0 => []
  | off, n + 1 => .access (encodeRead (BitVec.ofNat 7 off)) :: .keep :: readPayloadActs (off + 1) n

/-- R221, R223: IR_REARM, UNMASK, then the decoder event with the two bytes read. -/
def irDutyActs (locals : List Byte) : List ConsumerAct :=
  [.access (encodeCommand 0x01#8), .access (encodeCommand 0x05#8), .sendFrame (frameBytes (opEvent :: locals)), .loop]

/-- R222: no display action; the reference consumer acknowledges the frame all the same. The parameter of I19 says
whether this consumer does. -/
def unknownActs (c : Config) : List ConsumerAct :=
  [.access (encodeCommand 0x02#8), .access (encodeCommand 0x05#8)] ++ (if c.ackUnknown then ackActs else [])

/-- R292, R223: the display driver's `init()`, then the loop. -/
def referenceProgram : List ConsumerAct := [.driver .init, .loop]

/-- The consumer's next action, `s` being the state with that action taken off the program. -/
def consumerAct (a : ConsumerAct) (s : State) : Fetched :=
  match a with
  | .access w => .run (.access w) s
  | .takeFrame bytes =>
    match decode (.frameIn bytes) with
    | .ok _ => .run (.frameIn bytes) s
    | .error _ => .done (s.schedule (unknownActs s.cfg))
  | .sendFrame bytes => .run (.frameOut bytes) s
  | .driver c => .done { s with con := { s.con with display := s.con.display ++ [c] } }
  | .branchStatus => .done (s.schedule (branchActs s.con.rdData))
  | .readPayload =>
    .done (State.schedule (readPayloadActs 0x40 s.con.rdData.toNat ++ [.takePacket])
      { s with con := { s.con with locals := [s.con.rdData] } })
  | .keep => .done { s with con := { s.con with locals := s.con.locals ++ [s.con.rdData] } }
  | .takePacket =>
    .done (State.schedule [.takeFrame s.con.locals, .loop] { s with con := { s.con with locals := [] } })
  | .takeIr => .done (State.schedule (irDutyActs s.con.locals) { s with con := { s.con with locals := [] } })
  | .loop => .done (s.schedule loopActs)

/-- R188: the consumer has a step exactly when SLEEP = 0; otherwise, and when its program is over, its turn passes
and its program stays. -/
def consumerTurn (s : State) : Fetched :=
  if s.ids.sleep then .done s
  else match s.con.prog with
    | [] => .done s
    | a :: rest => consumerAct a { s with con := { s.con with prog := rest } }

end Sys2Proof.Machine
end

