-- ==== Sys2Proof/Machine/LinkPartner.lean ====
section
/-! DEFINITION. The link partner, the host's end of the serial link (44_link_partner.md R240 to R249), and what a turn of each agent comes to (00_scope.md R5, R6). -/

namespace Sys2Proof.Machine

/-- R243, R245: a frame has been read: the awaited reply, which must be the done ack, or an unsolicited frame. -/
def Link.conclude (p : List Byte) (l : Link) : Link :=
  if l.awaiting then
    { l with awaiting := false, read := .idle,
             log := l.log ++ [if p = [opDone] then .commandOk else .commandFailed (some p)] }
  else
    match p with
    | [op, a, b] =>
      if op = opEvent then { l with read := .idle, log := l.log ++ [.decoderEvent a b] }
      else { l with read := .idle, log := l.log ++ [.ignored p] }
    | _ => { l with read := .idle, log := l.log ++ [.ignored p] }

/-- R242, R243: every attempt failed: the host warns, abandons the read, and the command it was for fails. -/
def Link.abandon (l : Link) : Link :=
  { l with awaiting := false, read := .idle,
           log := l.log ++ .readAbandoned :: (if l.awaiting then [.commandFailed none] else []) }

/-- R242: the length byte has been read; a frame of length 0 is empty (D40). -/
def Link.lengthRead (len : Byte) (l : Link) : Link :=
  if len = 0x00#8 then l.conclude [] else { l with read := .payload len [] }

/-- R242: a payload byte has been read; the frame is whole once there are `len` of them. -/
def Link.byteRead (len : Byte) (got : List Byte) (b : Byte) (l : Link) : Link :=
  if len.toNat ≤ got.length + 1 then l.conclude (got ++ [b]) else { l with read := .payload len (got ++ [b]) }

/-- R241, R243, R249: the first `written` bytes of the frame are on their way and the host reads the reply; a short
write is a transport error, and it too waits for the reply before the next send (notes/assumptions/15.md). -/
def Link.write (attempts : Nat) (p : List Byte) (written : Nat) (l : Link) : Link :=
  { l with
    wire := l.wire ++ (frameBytes p).take written
    awaiting := true
    read := .length attempts
    log := if p.length + 1 ≤ written then l.log else l.log ++ [.shortWrite] }

/-- R248: a documented client command makes the host send this frame: `c`, `h`, `d`, a `g` within the display, a `p`
of 1 to COLS text bytes. No client command produces an `r`. -/
def clientSends (c : Config) : Instr → Bool
  | .frameClear | .frameHome | .frameDim _ => true
  | .frameGoto x y => decide (x.toNat < c.cols ∧ y.toNat < c.rows)
  | .framePrint text => decide (1 ≤ text.length ∧ text.length ≤ c.cols)
  | .frameRaw _ _ _ | .frameDecoderEvent _ _ | .frameDone => false
  | .edge _ _ | .rxbyte _ | .tick | .rd _ | .wrTxlen _ | .wrTxbuf _ _ | .cmdIrRearm | .cmdRxRearm | .cmdTxSend
  | .cmdMask | .cmdUnmask | .cmdWait | .cmdClrdiag => false

/-- R248: the payload of a frame the host sends. -/
def clientPayload (c : Config) (p : List Byte) : Bool :=
  match decodePayloadIn p with
  | .ok i => clientSends c i
  | .error _ => false

/-- R244, R248, R249: the host may send this now: no reply is awaited, no frame is being read, the length is legal and
the frame is one a client command produces. -/
def hostMaySend (s : State) (p : List Byte) : Bool :=
  !s.link.awaiting && decide (s.link.read = .idle) && decide (1 ≤ p.length ∧ p.length ≤ s.cfg.cap)
    && clientPayload s.cfg p

/-- R240: the host takes the byte at the head of TXQ; with TXQ empty it has no step. -/
def takeFromDevice (s : State) (k : Byte → Link → Link) : State :=
  match s.tx.q with
  | [] => s
  | b :: q => { s with tx := { s.tx with q := q }, link := k b s.link }

/-- R242: one attempt at a length byte. It fails or succeeds freely, and a success takes the head of TXQ. -/
def hostAttempt (succeeds : Bool) (s : State) : State :=
  match s.link.read with
  | .length 0 => { s with link := s.link.abandon }
  | .length (k + 1) =>
    if succeeds then takeFromDevice s (fun b l => l.lengthRead b)
    else if k = 0 then { s with link := s.link.abandon }
    else { s with link := { s.link with read := .length k } }
  | .idle | .payload _ _ => s

/-- R242: the payload bytes are read one at a time, with no timeout. -/
def hostReceive (s : State) : State :=
  match s.link.read with
  | .payload len got => takeFromDevice s (fun b l => l.byteRead len got b)
  | .idle | .length _ => s

/-- R245: with no reply awaited and a byte ready, the host starts to read a frame. -/
def hostPoll (s : State) : State :=
  if s.link.awaiting = false ∧ s.link.read = .idle ∧ s.tx.q ≠ [] then
    { s with link := { s.link with read := .length s.cfg.hostLenAttempts } }
  else s

/-- R246, R249: the host stops; no further byte of it reaches the block, and another host starts afresh. The block
keeps its state, TXQ too (R247). -/
def hostExit (s : State) : State :=
  { s with link := { wire := [], awaiting := false, read := .idle, log := s.link.log ++ [.exited] } }

/-- R249: a move of the link partner. A move the host is not in a position to make leaves everything as it is,
and a send outside its duties is refused (I12). -/
def hostTurn (m : HostMove) (s : State) : Fetched :=
  match m with
  | .send p written =>
    if hostMaySend s p then .done { s with link := s.link.write s.cfg.hostLenAttempts p written } else .stop .hostDuty
  | .attempt succeeds => .done (hostAttempt succeeds s)
  | .receive => .done (hostReceive s)
  | .poll => .done (hostPoll s)
  | .exit => .done (hostExit s)

/-- R67, R241: the next byte in flight reaches the block as an RXBYTE event. -/
def deliverTurn (s : State) : Fetched :=
  match s.link.wire with
  | [] => .done s
  | b :: rest => .run (.event (encodeRxbyte b)) { s with link := { s.link with wire := rest } }

/-- R53, R81: a pin transition becomes an EDGE event with the count the capture timer gives. -/
def pinEvent (c : Config) (dtNs : Nat) (lvl : Bool) : Encoded :=
  .event (encodeEdge lvl (BitVec.ofNat 24 (captureCount c dtNs)))

/-- An agent's turn, `s` being the state with that turn taken off the schedule. -/
def takeTurn (t : Turn) (s : State) : Fetched :=
  match t with
  | .event w => .run (.event w) s
  | .pin dtNs lvl => .run (pinEvent s.cfg dtNs lvl) s
  | .deliver => deliverTurn s
  | .consumer => consumerTurn s
  | .host m => hostTurn m s

/-- What happens next. An ill-formed configuration is refused (R8, I13); with no agent to move the block, being
passive, stays as it is (R5). -/
def fetch (s : State) : Fetched :=
  if s.cfg.wf then
    match s.turns with
    | [] => .done s
    | t :: rest => takeTurn t { s with turns := rest }
  else .stop .illFormedConfig

/-- The refusal a decoding error becomes (R51, R84, R88, R90). -/
def refusalOf : DecodeError → Refusal
  | .reservedEvent => .reservedEvent
  | .reservedAccess => .reservedAccess
  | .reservedCommand => .reservedCommand
  | .unknownFrame => .unknownFrame

/-- The state in which the very next step runs what `e` encodes: the agent the channel belongs to has the turn, and
for the consumer's channels the operation is the first of its program. -/
def placeNext (e : Encoded) (s : State) : State :=
  match e with
  | .event w => { s with turns := .event w :: s.turns }
  | .access w => { s.schedule [.access w] with turns := .consumer :: s.turns }
  | .frameIn bytes => { s.schedule [.takeFrame bytes] with turns := .consumer :: s.turns }
  | .frameOut bytes => { s.schedule [.sendFrame bytes] with turns := .consumer :: s.turns }

end Sys2Proof.Machine
end

