-- ==== Sys2Proof/Machine/Step.lean ====
section
/-! DEFINITION. One step of the machine: the agent whose turn it is acts, and what it issues is decoded and executed, in one atomic step (00_scope.md R6). -/

namespace Sys2Proof.Machine

/-- One atomic step. -/
def step (s : State) : Host.Outcome State Fault Refusal :=
  match fetch s with
  | .done s' => .next s'
  | .stop r => .refused r
  | .run e s' =>
    match decode e with
    | .ok i => exec i s'
    | .error err => .refused (refusalOf err)

/-- `s` with the instruction placed where the next step fetches it: the turn of its agent and, for the consumer, the
first action of its program. A word of a length the opcode table does not have places nothing. -/
def State.withFetchWord (s : State) (nbits w : Nat) : State :=
  match encodedOfTableWord nbits w with
  | some e => placeNext e s
  | none => s

end Sys2Proof.Machine
end

