-- ==== Sys2Proof/Safety.lean ====
section
/-! DEFINITION. The terms claims are stated in: the invariants of 10_state.md R52, a run of the machine, the edges that encode a word (40_decoder.md R121), reserved words (30_encoding.md R84, R88). -/

namespace Sys2Proof

open Sys2Proof.Machine

/-! ### Running -/

/-- What the block answers to one operation or event: decode, then execute (R6). -/
def issue (e : Encoded) (s : State) : Host.Outcome State Fault Refusal :=
  match decode e with
  | .ok i => exec i s
  | .error err => .refused (refusalOf err)

/-- A step from `s` issues `e` in `s'`: it runs the instruction `e` decodes to, and is refused by name if `e` decodes to
none (R6, R95). -/
def StepIssues (e : Encoded) (s s' : State) : Prop :=
  step s = issue e s'
  ∧ (∀ i, decode e = .ok i → step s = exec i s')
  ∧ (∀ err, decode e = .error err → step s = .refused (refusalOf err))

/-- The machine runs through these turns and reaches `t`: no step on the way is a refusal. -/
def RunsTo (turns : List Turn) (s t : State) : Prop :=
  Host.Core.run core turns.length { s with turns := turns } = .next t

/-! ### Invariants (R52, R173, R30, R49) -/

/-- Every index of the cells is below `n`. -/
def cellsBelow (n : Nat) (m : Memory) : Bool := m.all (fun cell => decide (cell.1 < n))

/-- R52 (a), (c) to (f), R24: the decoder unit. -/
structure EdcInv (e : Edc) : Prop where
  /-- R52 (a). -/
  enableIsNotReady : e.edgeEn = !e.irrdy
  /-- R52 (c). -/
  readyIffEnd : e.irrdy = true ↔ e.dstate = .END
  /-- R52 (d); code 7 is no value of the type. -/
  notError : e.dstate ≠ .ERROR
  /-- R24. -/
  cntLe : e.cnt.toNat ≤ 14
  /-- R52 (e). -/
  beginFresh : e.dstate = .BEGIN → e.cnt = 14#4 ∧ e.word = 0#14
  /-- R52 (f). -/
  lowBitsClear : ∀ j, j < e.cnt.toNat → e.word.getLsbD j = false

/-- R52 (b), (g), (h), R30, R47, R49: the framer's receive side, for a capacity. -/
structure RxInv (cap : Nat) (r : Rx) : Prop where
  /-- R52 (b). -/
  enableIsNotReady : r.en = !r.rdy
  /-- R52 (g). -/
  lenPhase : r.phase = .len → r.len = 0x00#8 ∧ r.cnt = 0x00#8
  /-- R52 (h). -/
  lenLe : r.len.toNat ≤ cap
  cntLe : r.cnt.toNat ≤ r.len.toNat
  /-- R30: a legal length while a frame is assembled or waits. -/
  dataPhase : r.phase = .data → 1 ≤ r.len.toNat
  /-- R143: the frame is still short of a byte until the mailbox is ready. -/
  assembling : r.phase = .data → r.rdy = false → r.cnt.toNat < r.len.toNat
  /-- R47, R49: a ready mailbox holds a whole packet and its terminator. -/
  whole : r.rdy = true → r.phase = .data ∧ r.cnt = r.len ∧ Memory.read r.buf r.len.toNat = 0x00#8
  /-- R32: the buffer is in canonical form and has CAP + 1 bytes. -/
  bufWf : Memory.wf r.buf = true
  bufSize : cellsBelow (cap + 1) r.buf = true

/-- R35: the staging buffer is in canonical form and has CAP bytes. -/
structure TxInv (cap : Nat) (t : Tx) : Prop where
  bufWf : Memory.wf t.buf = true
  bufSize : cellsBelow cap t.buf = true

/-- R52 (i), R38, R173: the latches. -/
structure IdsInv (s : State) : Prop where
  /-- R52 (i). -/
  edgeLatched : s.ids.epend = true → s.edc.edgeEn = true
  byteLatched : s.ids.rpend = true → s.rx.en = true
  /-- R173: GIE = 1 implies that every latch is empty. -/
  unmaskedEmpty : s.ids.gie = true → s.ids.epend = false ∧ s.ids.rpend = false ∧ s.ids.tpend = false
  /-- R38: EPEND_T has W_TICK bits. -/
  ticksFit : s.ids.ependT.toNat < 2 ^ s.cfg.wTick

/-- The invariants of R52, under a well-formed configuration (R8). -/
structure Inv (s : State) : Prop where
  cfg : s.cfg.wf = true
  edc : EdcInv s.edc
  rx : RxInv s.cfg.cap s.rx
  tx : TxInv s.cfg.cap s.tx
  ids : IdsInv s

/-- R188, R275: the consumer sleeps only with GIE = 1. -/
def SleepsUnmasked (s : State) : Prop := s.ids.sleep = true → s.ids.gie = true

/-- No event is latched. -/
def NoLatch (s : State) : Prop := s.ids.epend = false ∧ s.ids.rpend = false ∧ s.ids.tpend = false

/-! ### The edges of a word (R121) -/

/-- The edges after the leading one, as classes and effective levels, for the bits that follow bit `b`, most
significant first. A 1 is the half-bit levels high, low and a 0 is low, high; the line idles high. An edge is where
the level changes, SHORT after one half-bit and LONG after two; a final 1 has a trailing edge. -/
def edgesAfter : Bool → List Bool → List (Interval × Bool)
  | true, [] => [(.short, true)]
  | false, [] => []
  | b, b' :: bits =>
    if b = b' then (.short, b') :: (.short, !b') :: edgesAfter b' bits else (.long, !b') :: edgesAfter b' bits

/-- The bits of a word below bit 13, most significant first. -/
def lowBits (w : BitVec 14) : List Bool := (List.range 13).map (fun k => w.getLsbD (12 - k))

/-- An edge event (pin level, ticks) has this class and effective level. -/
def EdgeIs (c : Config) (ev : Bool × Ticks) (want : Interval × Bool) : Prop :=
  classify c ev.2.toNat = some want.1 ∧ effectiveLevel c ev.1 = want.2 ∧ ev.2.toNat < 2 ^ c.wTick

/-- The edge events `evs` follow the leading edge of the frame that encodes `w` (R121). -/
def FrameEdges (c : Config) (w : BitVec 14) (evs : List (Bool × Ticks)) : Prop :=
  List.Forall₂ (EdgeIs c) evs (edgesAfter true (lowBits w))

/-- The turn in which the environment delivers an edge. -/
def edgeTurn (ev : Bool × Ticks) : Turn := .event (encodeEdge ev.1 ev.2)

/-- The turn in which the environment delivers a received byte. -/
def byteTurn (b : Byte) : Turn := .event (encodeRxbyte b)

/-! ### States after a step, spelled out field by field -/

/-- The edge is accepted and handled at once: its source is enabled, interrupts are unmasked, its count fits (R171,
R173, R81). -/
def EdgeHandled (s : State) (t : Ticks) : Prop :=
  s.edc.edgeEn = true ∧ s.ids.gie = true ∧ t.toNat < 2 ^ s.cfg.wTick

/-- The byte is accepted and handled at once, by a framer whose mailbox is empty (R171, R173, R52 (b)). -/
def ByteHandled (s : State) : Prop := s.rx.en = true ∧ s.rx.rdy = false ∧ s.ids.gie = true

/-- `s` with the consumer awake (R174). -/
def awake (s : State) : State := { s with ids := { s.ids with sleep := false } }

/-- `s` after a handled edge that leaves the decoder unit at `e`: the consumer is awake (R174), nothing else changed. -/
def afterEdge (s : State) (e : Edc) : State := awake { s with edc := e }

/-- The decoder unit after `restart(cause)` and the replay of the edge (R116). -/
def restarted (cause : Cause) (e : Edc) : Edc :=
  { e with diag := cause, dstate := .MID1, cnt := 13#4, word := 0x2000#14 }

/-- One of the four states the transition table has a row for (R114). -/
def TableState (d : DState) : Prop := d = .START1 ∨ d = .MID1 ∨ d = .MID0 ∨ d = .START0

/-- Neither SHORT nor LONG (R111). -/
def InvalidInterval (c : Config) (t : Nat) : Prop :=
  ¬ (c.shortMin ≤ t ∧ t ≤ c.shortMax) ∧ ¬ (c.longMin ≤ t ∧ t ≤ c.longMax)

/-- `s` after a read that returned `v` (R180). -/
def returned (v : Byte) (s : State) : State := { s with con := { s.con with rdData := v } }

/-- `s` after a read of any value: some byte was returned and one free value was used up (R65). -/
def returnedFree (v : Byte) (s : State) : State :=
  { s with con := { s.con with rdData := v, freeCount := s.con.freeCount + 1 } }

/-- `s` unmasked and drained (R175), unit by unit: a latched edge went to the decoder, a latched byte to the framer;
the consumer, `asleep` before, is awake if an edge or a tick was latched or the byte completed a frame (R174). -/
def drained (asleep : Bool) (s : State) : State :=
  let rx' := if s.ids.rpend then s.rx.byte s.cfg s.ids.rpendB else s.rx
  { s with
    edc := if s.ids.epend then s.edc.edge s.cfg s.ids.ependL s.ids.ependT.toNat else s.edc
    rx := rx'
    ids := { s.ids with
      gie := true, epend := false, rpend := false, tpend := false
      sleep := asleep && !(s.ids.epend || s.ids.tpend || (s.ids.rpend && rx'.rdy)) } }

/-- `s` with actions put before the rest of the consumer's program. -/
def withActs (acts : List ConsumerAct) (s : State) : State :=
  { s with con := { s.con with prog := acts ++ s.con.prog } }

/-- R211 to R216: what the consumer asks of the display driver for a host-to-device frame. -/
def driverCalls : Instr → List DriverCall
  | .frameClear => [.clear]
  | .frameDim level => [.dim level]
  | .frameHome => [.home]
  | .frameGoto x y => [.goto x y]
  | .framePrint text =>
    if text.head? = none ∨ text.head? = some 0x00#8 then [] else [.print (text.takeWhile (fun b => decide (b ≠ 0x00#8)))]
  | .frameRaw byte isChar wait => [.sendCommand byte (decide (isChar ≠ 0x00#8)) wait]
  | _ => []

/-- The frame travels from host to device (R90). -/
def HostToDevice (i : Instr) : Prop := ∃ bytes, encode i = .frameIn bytes

/-- R248: the payloads a host sends under the documented client commands. -/
def ClientFrame (c : Config) (p : List Byte) : Prop :=
  p = [0x63#8] ∨ p = [0x68#8] ∨ (∃ v, p = [0x64#8, v])
  ∨ (∃ x y, p = [0x67#8, x, y] ∧ x.toNat < c.cols ∧ y.toNat < c.rows)
  ∨ (∃ text, p = 0x70#8 :: text ∧ 1 ≤ text.length ∧ text.length ≤ c.cols)

/-! ### Reserved words -/

/-- R84: a reserved event word: a kind that is not named, or a non-zero bit outside the named kind's fields (for
EDGE, R81: bits 27 to 25, and the tick bits from W_TICK up). -/
def reservedEventWord (c : Config) (w : EventWord) : Prop :=
  let kind := w.toNat / 2 ^ 28
  (kind ≠ 1 ∧ kind ≠ 2 ∧ kind ≠ 3)
    ∨ (kind = 1 ∧ (w.toNat / 2 ^ 25 % 8 ≠ 0 ∨ w.toNat % 2 ^ 24 / 2 ^ c.wTick ≠ 0))
    ∨ (kind = 2 ∧ w.toNat / 2 ^ 8 % 2 ^ 20 ≠ 0)
    ∨ (kind = 3 ∧ w.toNat % 2 ^ 28 ≠ 0)

/-- R85: a read ignores its data byte; an encoder writes it as 0. Every other encoding is its own canonical form. -/
def canonical : Encoded → Encoded
  | .access w => if w.getLsbD 15 then .access w else .access (w &&& 0xFF00#16)
  | e => e

end Sys2Proof
end

