-- ==== Sys2Proof/Certificates/Slice0/Obligations.lean ====
section
/-! DEFINITION. The statements about the irpanel device core that the provers settle. Each docstring names the rule of spec/ it formalises. -/

open Sys2Proof Sys2Proof.Machine

/-! ### The machine's step -/

/-- R6, R80, R85, R241: what reaches the block on an agent's turn is decoded and executed in that one step, and refused
by name where it decodes to nothing (R51, R84, R88). Around `exec` a step only takes the turn off the schedule and the
action or the byte off the agent's own queue. The schedule and the bytes in flight are the model's (notes/assumptions/4.md,
19.md); so is that a frame is an operation the consumer issues in one turn (11.md, 14.md), and that one that is no row
queues the duty of R222 (13.md). -/
def Obligations.StepRunsTheDecodedInstruction : Prop :=
  ∀ (s : State) (ts : List Turn), s.cfg.wf = true →
    (∀ w, s.turns = .event w :: ts → StepIssues (.event w) s { s with turns := ts })
    ∧ (∀ b rest, s.turns = .deliver :: ts → s.link.wire = b :: rest →
        step s = exec (.rxbyte b) { s with turns := ts, link := { s.link with wire := rest } })
    ∧ (∀ a rest, s.turns = .consumer :: ts → s.ids.sleep = false → s.con.prog = a :: rest →
        let s' := { s with turns := ts, con := { s.con with prog := rest } }
        (∀ w, a = .access w → StepIssues (.access w) s s')
        ∧ (∀ bytes, a = .sendFrame bytes → StepIssues (.frameOut bytes) s s')
        ∧ (∀ bytes i, a = .takeFrame bytes → decode (.frameIn bytes) = .ok i → step s = exec i s')
        ∧ (∀ bytes err, a = .takeFrame bytes → decode (.frameIn bytes) = .error err →
            step s = .next (withActs (unknownActs s.cfg) s')))

/-- R188: while SLEEP = 1 the consumer has no step. That its turn then passes and its program stays is the model's
reading (notes/assumptions/5.md). -/
def Obligations.SleepingConsumerHasNoStep : Prop :=
  ∀ (s : State) (ts : List Turn), s.cfg.wf = true → s.ids.sleep = true → s.turns = .consumer :: ts →
    step s = .next { s with turns := ts }

/-- R8: no step changes the configuration (the model carries it in the state, notes/assumptions/1.md). -/
def Obligations.StepKeepsConfiguration : Prop :=
  ∀ s t : State, step s = .next t → t.cfg = s.cfg

/-! ### Invariants -/

/-- R52 (a) to (i), with R24, R30, R35, R38, R47, R49 and R173: every step keeps them. -/
def Obligations.EveryStepKeepsTheInvariants : Prop :=
  ∀ s t : State, Inv s → step s = .next t → Inv t

/-- R52, R290: they hold at reset, under every well-formed configuration. -/
def Obligations.ResetMeetsTheInvariants : Prop :=
  ∀ c : Config, c.wf = true → Inv (State.resetWith c)

/-- R185, R188, R275: the consumer sleeps only with GIE = 1, so no event can be latched under GIE = 0 during the
wait; every step keeps this. -/
def Obligations.SleepOnlyUnmasked : Prop :=
  ∀ s t : State, SleepsUnmasked s → step s = .next t → SleepsUnmasked t

/-- R290: the block after reset, under any configuration, and what the window's registers hold then. The last clause
is the first capture count, which may be any value: BEGIN ignores it. -/
def Obligations.ResetState : Prop :=
  ∀ c : Config,
    let s := State.resetWith c
    s.edc = { dstate := .BEGIN, cnt := 14#4, word := 0#14, edgeEn := true, irrdy := false, diag := .none }
    ∧ s.rx.phase = .len ∧ s.rx.len = 0x00#8 ∧ s.rx.cnt = 0x00#8 ∧ (∀ i, Memory.read s.rx.buf i = 0x00#8)
    ∧ s.rx.rdy = false ∧ s.rx.en = true ∧ s.rx.lenerr = false ∧ s.rx.ovr = false
    ∧ s.tx.len = 0x00#8 ∧ (∀ i, Memory.read s.tx.buf i = 0x00#8) ∧ s.tx.q = []
    ∧ s.ids = { gie := false, epend := false, ependT := 0#24, ependL := false, rpend := false, rpendB := 0x00#8,
                tpend := false, evovr := false, sleep := false }
    ∧ regValue s .status = 0x18#8 ∧ regValue s .dstat = 0xE0#8
    ∧ (∀ r, r ≠ .status → r ≠ .dstat → regValue s r = 0x00#8)
    ∧ (∀ lvl t lvl' t', s.edc.edge c lvl t = s.edc.edge c lvl' t')

/-! ### Encodings -/

/-- R80 to R91: every well-formed instruction is read back from its own encoding, every operand at every value. -/
def Obligations.DecodeOfEncode : Prop :=
  ∀ (c : Config) (i : Instr), c.wf = true → i.wf c = true → decode (encode i) = .ok i

/-- R85 and R80 to R91: where the decoder gives an instruction, the encoder gives back the word it read; only the data
byte of a read, which a read ignores, is written as 0. -/
def Obligations.EncodeOfDecode : Prop :=
  ∀ (e : Encoded) (i : Instr), decode e = .ok i → encode i = canonical e

/-- Words written out from 30_encoding.md and 95_test_vectors.md, and frames of V-PAY-01. -/
def Obligations.WordsDecodeAsWrittenOut : Prop :=
  decode (.event 0x1000EA60#32) = .ok (.edge false 60000#24)
  ∧ decode (.event 0x11000379#32) = .ok (.edge true 889#24)
  ∧ decode (.event 0x20000067#32) = .ok (.rxbyte 0x67#8)
  ∧ decode (.event 0x30000000#32) = .ok .tick
  ∧ decode (.access 0x5800#16) = .ok (.rd 0x58#7)
  ∧ decode (.access 0x8B03#16) = .ok (.wrTxlen 0x03#8)
  ∧ decode (.access 0xF7AA#16) = .ok (.wrTxbuf 23#5 0xAA#8)
  ∧ decode (.access 0x8006#16) = .ok .cmdWait
  ∧ decode (.frameIn [0x03#8, 0x67#8, 0x05#8, 0x01#8]) = .ok (.frameGoto 0x05#8 0x01#8)
  ∧ decode (.frameOut [0x03#8, 0x69#8, 0x04#8, 0x09#8]) = .ok (.frameDecoderEvent 0x04#8 0x09#8)

/-- R84 (with R80 for the bits): a reserved event word is refused. That an EDGE word with a tick bit from W_TICK up, which
R81 says must be 0, is reserved is deduced (notes/assumptions/9.md). -/
def Obligations.ReservedEventWordRefused : Prop :=
  ∀ (s : State) (w : EventWord), reservedEventWord s.cfg w → issue (.event w) s = .refused .reservedEvent

/-- R88, R187: a write of 0x00 or of 0x08 to 0xFF to CMD is refused. -/
def Obligations.ReservedCommandRefused : Prop :=
  ∀ (s : State) (code : Byte), code.toNat = 0 ∨ 8 ≤ code.toNat →
    issue (.access (encodeCommand code)) s = .refused .reservedCommand

/-- R51: a read of a reserved offset and a write to a read-only or reserved one are refused; a read of CMD is defined
and returns 0x00. -/
def Obligations.ReservedAccessRefused : Prop :=
  ∀ (s : State) (off : Offset) (v : Byte), s.cfg.wf = true →
    ((0x0C ≤ off.toNat ∧ off.toNat ≤ 0x3F ∨ 0x41 + s.cfg.cap ≤ off.toNat ∧ off.toNat ≤ 0x5F
        ∨ 0x60 + s.cfg.cap ≤ off.toNat) → issue (.access (encodeRead off)) s = .refused .reservedAccess)
    ∧ ((1 ≤ off.toNat ∧ off.toNat ≤ 0x0A ∨ 0x0C ≤ off.toNat ∧ off.toNat ≤ 0x5F ∨ 0x60 + s.cfg.cap ≤ off.toNat) →
        issue (.access (encodeWrite off v)) s = .refused .reservedAccess)
    ∧ issue (.access (encodeRead 0x00#7)) s = .next (returned 0x00#8 s)

/-! ### Edge-timing decoder -/

/-- R93: the packed transition table: the next state of each table state under each event, as two bits of one byte. -/
def Obligations.PackedTransitionTable : Prop :=
  let next (trans : Byte) (e : Nat) : BitVec 3 := ((trans >>> (2 * e)) &&& 3#8).truncate 3 + 1#3
  let row (d : DState) (trans : Byte) : Prop :=
    (nextState d .short false).code = next trans 0 ∧ (nextState d .short true).code = next trans 1
    ∧ (nextState d .long false).code = next trans 2 ∧ (nextState d .long true).code = next trans 3
  row .START1 0x01#8 ∧ row .MID1 0x91#8 ∧ row .MID0 0x9B#8 ∧ row .START0 0xFB#8

/-- R111: the bands are inclusive and SHORT is tested first; outside them the interval is INVALID, and so it is (R119,
for a well-formed configuration) at 0 and at the saturated count. -/
def Obligations.IntervalBands : Prop :=
  ∀ (c : Config) (t : Nat),
    (classify c t = some .short ↔ c.shortMin ≤ t ∧ t ≤ c.shortMax)
    ∧ (classify c t = some .long ↔ ¬ (c.shortMin ≤ t ∧ t ≤ c.shortMax) ∧ c.longMin ≤ t ∧ t ≤ c.longMax)
    ∧ (classify c t = none ↔ InvalidInterval c t)
    ∧ (c.wf = true → classify c 0 = none ∧ classify c (2 ^ c.wTick - 1) = none)

/-- R112: in BEGIN a handled edge of any class and level is the leading logical 1. -/
def Obligations.LeadingEdge : Prop :=
  ∀ (s : State) (lvl : Bool) (t : Ticks), EdgeHandled s t → s.edc.dstate = .BEGIN →
    exec (.edge lvl t) s = .next (afterEdge s { s.edc with
      cnt := s.edc.cnt - 1#4, word := s.edc.word ||| (1#14 <<< (s.edc.cnt - 1#4).toNat), dstate := .MID1 })
    ∧ (s.edc.cnt = 14#4 → s.edc.word = 0#14 →
        exec (.edge lvl t) s = .next (afterEdge s { s.edc with cnt := 13#4, word := 0x2000#14, dstate := .MID1 }))

/-- R113, R116: the four causes of a restart, and what a restart with replay leaves. EDGE_EN and IRRDY are not
changed. -/
def Obligations.RestartWithReplay : Prop :=
  ∀ (s : State) (lvl : Bool) (t : Ticks), EdgeHandled s t →
    ((s.edc.dstate = .ERROR ∨ s.edc.dstate = .END) →
      exec (.edge lvl t) s = .next (afterEdge s (restarted .state s.edc)))
    ∧ (TableState s.edc.dstate →
      (InvalidInterval s.cfg t.toNat → exec (.edge lvl t) s = .next (afterEdge s (restarted .invalid s.edc)))
      ∧ (∀ k, classify s.cfg t.toNat = some k →
          (nextState s.edc.dstate k (lvl.xor s.cfg.invertLevel) = s.edc.dstate →
            exec (.edge lvl t) s = .next (afterEdge s (restarted .selfmap s.edc)))
          ∧ (nextState s.edc.dstate k (lvl.xor s.cfg.invertLevel) ≠ s.edc.dstate → s.edc.cnt = 0#4 →
            (nextState s.edc.dstate k (lvl.xor s.cfg.invertLevel) = .MID0
              ∨ nextState s.edc.dstate k (lvl.xor s.cfg.invertLevel) = .MID1) →
            exec (.edge lvl t) s = .next (afterEdge s (restarted .underflow s.edc)))))

/-- R115, R117: what a handled edge that is no glitch does: a bit is taken on entering MID1 (set) or MID0 (left 0), or
the decoder restarts where no bit is due, and with the counter at zero START1 and MID0 complete the frame. -/
def Obligations.BitTakenAndCompletion : Prop :=
  ∀ (s : State) (lvl : Bool) (t : Ticks) (k : Interval) (n : DState), EdgeHandled s t → TableState s.edc.dstate →
    classify s.cfg t.toNat = some k → nextState s.edc.dstate k (lvl.xor s.cfg.invertLevel) = n → n ≠ s.edc.dstate →
    (n = .MID1 → s.edc.cnt ≠ 0#4 →
      exec (.edge lvl t) s = .next (afterEdge s { s.edc with
        cnt := s.edc.cnt - 1#4, word := s.edc.word ||| (1#14 <<< (s.edc.cnt - 1#4).toNat), dstate := .MID1 }))
    ∧ (n = .MID0 → s.edc.cnt ≠ 0#4 → s.edc.cnt ≠ 1#4 →
      exec (.edge lvl t) s = .next (afterEdge s { s.edc with cnt := s.edc.cnt - 1#4, dstate := .MID0 }))
    ∧ (n = .MID0 → s.edc.cnt = 1#4 →
      exec (.edge lvl t) s = .next (afterEdge s { s.edc with
        cnt := 0#4, dstate := .END, edgeEn := false, irrdy := true }))
    ∧ (n = .START1 → s.edc.cnt = 0#4 →
      exec (.edge lvl t) s = .next (afterEdge s { s.edc with dstate := .END, edgeEn := false, irrdy := true }))
    ∧ (n = .START1 → s.edc.cnt ≠ 0#4 →
      exec (.edge lvl t) s = .next (afterEdge s { s.edc with dstate := .START1 }))
    ∧ (n = .START0 → exec (.edge lvl t) s = .next (afterEdge s { s.edc with dstate := .START0 }))
    ∧ ((n = .MID0 ∨ n = .MID1) → s.edc.cnt = 0#4 →
      exec (.edge lvl t) s = .next (afterEdge s (restarted .underflow s.edc)))

/-- R120: IR_REARM, from any state; DIAG is unchanged and a latched edge is dropped. -/
def Obligations.IrRearm : Prop :=
  decode (.access 0x8001#16) = .ok .cmdIrRearm
  ∧ ∀ s : State, exec .cmdIrRearm s = .next { s with
      edc := { s.edc with cnt := 14#4, word := 0#14, dstate := .BEGIN, edgeEn := true, irrdy := false }
      ids := { s.ids with epend := false } }

/-- R121: the machine decodes every word whose bit 13 is 1, from its edges, whatever the interval lengths within their
bands and whatever the leading edge: the mailbox is ready with that word. -/
def Obligations.DecodesEveryWord : Prop :=
  ∀ (s : State) (w : BitVec 14) (lead : Bool × Ticks) (evs : List (Bool × Ticks)),
    s.cfg.wf = true → s.ids.gie = true → s.edc.edgeEn = true →
    s.edc.dstate = .BEGIN → s.edc.cnt = 14#4 → s.edc.word = 0#14 →
    w.getLsbD 13 = true → lead.2.toNat < 2 ^ s.cfg.wTick → FrameEdges s.cfg w evs →
    RunsTo ((lead :: evs).map edgeTurn) s (afterEdge { s with turns := [] }
      { s.edc with dstate := .END, cnt := 0#4, word := w, edgeEn := false, irrdy := true })

/-- R116, R122: self-healing. Wherever a frame in progress was left, an idle gap (an INVALID interval) before the
leading edge of a well-formed frame makes the machine decode that frame, with no consumer action. And a frame `v` with
one INVALID interval (its edges after the leading one are `pre`, the damaged edge, `post`) never sets IRRDY, at none of
its edges; after the gap the next well-formed frame is decoded. -/
def Obligations.DecodesAfterAnyDamage : Prop :=
  ∀ (s : State) (w : BitVec 14) (lead : Bool × Ticks) (evs : List (Bool × Ticks)),
    s.cfg.wf = true → s.ids.gie = true → s.edc.edgeEn = true →
    w.getLsbD 13 = true → lead.2.toNat < 2 ^ s.cfg.wTick → InvalidInterval s.cfg lead.2.toNat →
    FrameEdges s.cfg w evs →
    let decoded := afterEdge { s with turns := [] }
      { s.edc with dstate := .END, cnt := 0#4, word := w, edgeEn := false, irrdy := true, diag := .invalid }
    (TableState s.edc.dstate → RunsTo ((lead :: evs).map edgeTurn) s decoded)
    ∧ (∀ (v : BitVec 14) (first : Bool × Ticks) (pre post : List (Bool × Ticks)) (lvl : Bool) (good bad : Ticks),
        s.edc.dstate = .BEGIN → s.edc.cnt = 14#4 → s.edc.word = 0#14 → s.edc.irrdy = false →
        v.getLsbD 13 = true → first.2.toNat < 2 ^ s.cfg.wTick →
        FrameEdges s.cfg v (pre ++ (lvl, good) :: post) →
        bad.toNat < 2 ^ s.cfg.wTick → InvalidInterval s.cfg bad.toNat →
        let damaged := first :: pre ++ (lvl, bad) :: post
        (∀ k, ∃ t, RunsTo ((damaged.take k).map edgeTurn) s t ∧ t.edc.irrdy = false ∧ t.edc.edgeEn = true)
        ∧ RunsTo ((damaged ++ lead :: evs).map edgeTurn) s decoded)

/-! ### Packet length-framer -/

/-- R141, R144: a byte in the length phase: a legal length is taken, any other is dropped with LENERR and nothing
else. Neither wakes the consumer. -/
def Obligations.LengthByte : Prop :=
  ∀ (s : State) (b : Byte), ByteHandled s → s.rx.phase = .len →
    (1 ≤ b.toNat ∧ b.toNat ≤ s.cfg.cap →
      exec (.rxbyte b) s = .next { s with rx := { s.rx with len := b, cnt := 0x00#8, phase := .data } })
    ∧ (b.toNat = 0 ∨ s.cfg.cap < b.toNat →
      exec (.rxbyte b) s = .next { s with rx := { s.rx with lenerr := true } })

/-- R142, R143: a byte in the payload phase is stored at RXCNT; the last one is followed by the terminating zero at
RXLEN, makes the mailbox ready, disables reception and wakes the consumer. Every other byte of RXBUF is unchanged. -/
def Obligations.PayloadByte : Prop :=
  ∀ (s : State) (b : Byte), ByteHandled s → s.rx.phase = .data → Memory.wf s.rx.buf = true →
    (s.rx.cnt + 1#8 ≠ s.rx.len → ∃ buf,
      exec (.rxbyte b) s = .next { s with rx := { s.rx with buf := buf, cnt := s.rx.cnt + 1#8 } }
      ∧ ∀ j, Memory.read buf j = if j = s.rx.cnt.toNat then b else Memory.read s.rx.buf j)
    ∧ (s.rx.cnt + 1#8 = s.rx.len → ∃ buf,
      exec (.rxbyte b) s = .next (awake { s with
        rx := { s.rx with buf := buf, cnt := s.rx.cnt + 1#8, rdy := true, en := false } })
      ∧ ∀ j, Memory.read buf j = if j = s.rx.len.toNat then 0x00#8
          else if j = s.rx.cnt.toNat then b else Memory.read s.rx.buf j)

/-- R146: RX_REARM, from any state; RXBUF is kept and a latched byte is dropped. -/
def Obligations.RxRearm : Prop :=
  decode (.access 0x8002#16) = .ok .cmdRxRearm
  ∧ ∀ s : State, exec .cmdRxRearm s = .next { s with
      rx := { s.rx with phase := .len, len := 0x00#8, cnt := 0x00#8, rdy := false, en := true, lenerr := false,
                        ovr := false }
      ids := { s.ids with rpend := false } }

/-- R148: TX_SEND: a legal TXLEN appends the length byte and then the staged bytes to TXQ, in one step; any other is
refused. -/
def Obligations.TxSend : Prop :=
  decode (.access 0x8003#16) = .ok .cmdTxSend
  ∧ ∀ s : State,
    (1 ≤ s.tx.len.toNat ∧ s.tx.len.toNat ≤ s.cfg.cap → ∃ p : List Byte,
      exec .cmdTxSend s = .next { s with tx := { s.tx with q := s.tx.q ++ s.tx.len :: p } }
      ∧ p.length = s.tx.len.toNat ∧ ∀ j (h : j < p.length), p[j] = Memory.read s.tx.buf j)
    ∧ (s.tx.len.toNat = 0 ∨ s.cfg.cap < s.tx.len.toNat → exec .cmdTxSend s = .refused .illegalTxLength)

/-- R149, inbound half: a host frame delivered byte by byte to a re-armed framer leaves the mailbox ready with exactly
the payload, its length and a terminating zero, and the consumer awake. -/
def Obligations.FramerReceivesEveryFrame : Prop :=
  ∀ (s : State) (p : List Byte), s.cfg.wf = true → ByteHandled s → s.rx.phase = .len → Memory.wf s.rx.buf = true →
    1 ≤ p.length → p.length ≤ s.cfg.cap →
    ∃ buf, RunsTo ((frameBytes p).map byteTurn) s (awake { s with
        turns := []
        rx := { s.rx with phase := .data, len := BitVec.ofNat 8 p.length, cnt := BitVec.ofNat 8 p.length, buf := buf,
                          rdy := true, en := false } })
      ∧ (∀ j (h : j < p.length), Memory.read buf j = p[j]) ∧ Memory.read buf p.length = 0x00#8
      ∧ (∀ j, p.length < j → Memory.read buf j = Memory.read s.rx.buf j)

/-! ### Dispatcher -/

/-- R171, R172: an event at a disabled source is discarded; with GIE = 0 an enabled one goes to its source's latch,
the older event kept; with GIE = 1 it is handled. -/
def Obligations.ArrivalAndLatching : Prop :=
  ∀ (s : State),
    (∀ lvl t, t.toNat < 2 ^ s.cfg.wTick →
      (s.edc.edgeEn = false → exec (.edge lvl t) s = .next s)
      ∧ (s.edc.edgeEn = true → s.ids.gie = false → s.ids.epend = false →
          exec (.edge lvl t) s = .next { s with ids := { s.ids with epend := true, ependT := t, ependL := lvl } })
      ∧ (s.edc.edgeEn = true → s.ids.gie = false → s.ids.epend = true →
          exec (.edge lvl t) s = .next { s with ids := { s.ids with evovr := true } })
      ∧ (s.edc.edgeEn = true → s.ids.gie = true → exec (.edge lvl t) s = .next (handle (.edge lvl t) s)))
    ∧ (∀ b,
      (s.rx.en = false → exec (.rxbyte b) s = .next { s with rx := { s.rx with ovr := true } })
      ∧ (s.rx.en = true → s.ids.gie = false → s.ids.rpend = false →
          exec (.rxbyte b) s = .next { s with ids := { s.ids with rpend := true, rpendB := b } })
      ∧ (s.rx.en = true → s.ids.gie = false → s.ids.rpend = true →
          exec (.rxbyte b) s = .next { s with ids := { s.ids with evovr := true } })
      ∧ (s.rx.en = true → s.ids.gie = true → exec (.rxbyte b) s = .next (handle (.rxbyte b) s)))
    ∧ (s.ids.gie = false → exec .tick s = .next { s with ids := { s.ids with tpend := true } })
    ∧ (s.ids.gie = true → exec .tick s = .next (handle .tick s))

/-- R177: a handled tick changes no state of the block: it only wakes the consumer. -/
def Obligations.TickOnlyWakes : Prop :=
  ∀ s : State, s.ids.gie = true → exec .tick s = .next (awake s)

/-- R174, R275: what wakes the consumer: a handled edge, a handled tick, a handled byte that completes a frame, and
nothing else. -/
def Obligations.WakeSources : Prop :=
  ∀ (s t : State), (s.rx.en = true → s.rx.rdy = false) →
    (∀ lvl n, exec (.edge lvl n) s = .next t → t.ids.sleep = (s.ids.sleep && !(s.ids.gie && s.edc.edgeEn)))
    ∧ (∀ b, exec (.rxbyte b) s = .next t → t.ids.sleep = (s.ids.sleep && !(s.ids.gie && s.rx.en && t.rx.rdy)))
    ∧ (exec .tick s = .next t → t.ids.sleep = (s.ids.sleep && !s.ids.gie))

/-- R174, R179, R269: the frames of the three handlers: an EDGE handler touches only the decoder unit, an RXBYTE
handler only the framer's receive side, a TICK handler neither; each may clear SLEEP and none changes GIE. -/
def Obligations.HandlersTouchTheirOwnUnit : Prop :=
  ∀ s t : State,
    (∀ lvl n, s.ids.gie = true → exec (.edge lvl n) s = .next t →
      t = { s with edc := t.edc, ids := { s.ids with sleep := t.ids.sleep } })
    ∧ (∀ b, s.ids.gie = true → exec (.rxbyte b) s = .next t →
      t = { s with rx := t.rx, ids := { s.ids with sleep := t.ids.sleep } })
    ∧ (s.ids.gie = true → exec .tick s = .next t → t = { s with ids := { s.ids with sleep := t.ids.sleep } })

/-- R183: MASK. -/
def Obligations.MaskCommand : Prop :=
  decode (.access 0x8004#16) = .ok .cmdMask
  ∧ ∀ s : State, exec .cmdMask s = .next { s with ids := { s.ids with gie := false } }

/-- R184: UNMASK: unmasked and drained in one step. -/
def Obligations.UnmaskDrains : Prop :=
  decode (.access 0x8005#16) = .ok .cmdUnmask
  ∧ ∀ s : State, exec .cmdUnmask s = .next (drained s.ids.sleep s)

/-- R185: WAIT: unmasked, asleep and drained in one step; a drained event that wakes leaves the consumer awake. -/
def Obligations.WaitDrains : Prop :=
  decode (.access 0x8006#16) = .ok .cmdWait
  ∧ ∀ s : State, exec .cmdWait s = .next (drained true s)

/-- R179, R264: any order of draining the three latches gives the same state. -/
def Obligations.DrainOrderInvisible : Prop :=
  ∀ s : State,
    drain s = drainTick (drainByte (drainEdge s)) ∧ drain s = drainByte (drainTick (drainEdge s))
    ∧ drain s = drainTick (drainEdge (drainByte s)) ∧ drain s = drainEdge (drainTick (drainByte s))
    ∧ drain s = drainByte (drainEdge (drainTick s)) ∧ drain s = drainEdge (drainByte (drainTick s))

/-- R186: CLRDIAG clears EVOVR and DIAG only. -/
def Obligations.ClearDiagnostics : Prop :=
  decode (.access 0x8007#16) = .ok .cmdClrdiag
  ∧ ∀ s : State, exec .cmdClrdiag s = .next { s with
      edc := { s.edc with diag := .none }, ids := { s.ids with evovr := false } }

/-- R291: IR_REARM, RX_REARM and CLRDIAG together bring every decoder and receive field except RXBUF to its reset
value, and change neither GIE, TXLEN, TXBUF, TXQ nor TPEND. -/
def Obligations.RearmsRestoreReset : Prop :=
  ∀ (c : Config) (s : State), ∃ s1 s2 s3,
    exec .cmdIrRearm s = .next s1 ∧ exec .cmdRxRearm s1 = .next s2 ∧ exec .cmdClrdiag s2 = .next s3
    ∧ s3.edc = (State.resetWith c).edc ∧ s3.rx = { (State.resetWith c).rx with buf := s.rx.buf }
    ∧ s3.tx = s.tx ∧ s3.ids.gie = s.ids.gie ∧ s3.ids.tpend = s.ids.tpend

/-! ### Register window -/

/-- R41, R42, R45, R46, R48, R50: reads of the registers whose value is defined at all times; no read changes the
block. -/
def Obligations.DefinedReads : Prop :=
  ∀ s : State,
    exec (.rd 0x00#7) s = .next (returned 0x00#8 s)
    ∧ (∃ v, exec (.rd 0x01#7) s = .next (returned v s)
        ∧ v.getLsbD 0 = s.edc.irrdy ∧ v.getLsbD 1 = s.rx.rdy ∧ v.getLsbD 2 = s.ids.gie ∧ v.getLsbD 3 = s.edc.edgeEn
        ∧ v.getLsbD 4 = s.rx.en ∧ v.getLsbD 5 = s.rx.lenerr ∧ v.getLsbD 6 = s.rx.ovr ∧ v.getLsbD 7 = s.ids.evovr)
    ∧ (∃ v, exec (.rd 0x07#7) s = .next (returned v s)
        ∧ v.toNat = 16 * s.edc.cnt.toNat + (match s.rx.phase with | .len => 0 | .data => 8)
            + (match s.edc.dstate with
              | .BEGIN => 0 | .START1 => 1 | .MID1 => 2 | .MID0 => 3 | .START0 => 4 | .ERROR => 5 | .END => 6))
    ∧ (∃ v, exec (.rd 0x08#7) s = .next (returned v s)
        ∧ v.toNat = (match s.edc.diag with
            | .none => 0 | .invalid => 1 | .selfmap => 2 | .state => 3 | .underflow => 4))
    ∧ exec (.rd 0x0B#7) s = .next (returned s.tx.len s)
    ∧ (∀ i, i < s.cfg.cap → s.cfg.cap ≤ 31 →
        exec (.rd (BitVec.ofNat 7 (0x60 + i))) s = .next (returned (Memory.read s.tx.buf i) s))

/-- R43, R44, R47, R49: reads of the mailbox value registers while their ready flag is 1. -/
def Obligations.MailboxReads : Prop :=
  ∀ s : State,
    (s.edc.irrdy = true →
      (∃ lo hi, exec (.rd 0x02#7) s = .next (returned lo s) ∧ exec (.rd 0x03#7) s = .next (returned hi s)
        ∧ s.edc.word.toNat = 256 * hi.toNat + lo.toNat)
      ∧ (∃ a, exec (.rd 0x04#7) s = .next (returned a s) ∧ a.toNat = s.edc.word.toNat / 2 ^ 6 % 2 ^ 5)
      ∧ (∃ c, exec (.rd 0x05#7) s = .next (returned c s) ∧ c.toNat = s.edc.word.toNat % 2 ^ 6)
      ∧ (∃ f, exec (.rd 0x06#7) s = .next (returned f s)
          ∧ f.toNat = 2 * (s.edc.word.toNat / 2 ^ 12) + s.edc.word.toNat / 2 ^ 11 % 2))
    ∧ (s.rx.rdy = true →
      exec (.rd 0x09#7) s = .next (returned s.rx.len s) ∧ exec (.rd 0x0A#7) s = .next (returned s.rx.cnt s)
      ∧ (∀ i, i ≤ s.rx.len.toNat → i ≤ s.cfg.cap → s.cfg.cap ≤ 31 →
          exec (.rd (BitVec.ofNat 7 (0x40 + i))) s = .next (returned (Memory.read s.rx.buf i) s)))

/-- R65 (I7, I8, I9): a mailbox value register read while its ready flag is 0, and RXBUF past the terminator, give
some byte, of which nothing is stated; nothing but the byte returned changes (notes/assumptions/7.md: a free value, and
the counter that numbers it). -/
def Obligations.AnyValueReads : Prop :=
  ∀ s : State,
    (s.edc.irrdy = false → ∀ off : Offset, 2 ≤ off.toNat → off.toNat ≤ 6 →
      ∃ v, exec (.rd off) s = .next (returnedFree v s))
    ∧ (s.rx.rdy = false → ∀ off : Offset, off.toNat = 9 ∨ off.toNat = 10 ∨
        (0x40 ≤ off.toNat ∧ off.toNat ≤ 0x40 + s.cfg.cap) → ∃ v, exec (.rd off) s = .next (returnedFree v s))
    ∧ (∀ off : Offset, 0x40 + s.rx.len.toNat < off.toNat → off.toNat ≤ 0x40 + s.cfg.cap →
        ∃ v, exec (.rd off) s = .next (returnedFree v s))

/-- R48, R50, R181: the two writable registers; every other byte of TXBUF is unchanged. -/
def Obligations.TransmitWrites : Prop :=
  ∀ (s : State) (v : Byte),
    exec (.wrTxlen v) s = .next { s with tx := { s.tx with len := v } }
    ∧ (∀ i : BitVec 5, i.toNat < s.cfg.cap → Memory.wf s.tx.buf = true → ∃ buf,
        exec (.wrTxbuf i v) s = .next { s with tx := { s.tx with buf := buf } }
        ∧ ∀ j, Memory.read buf j = if j = i.toNat then v else Memory.read s.tx.buf j)
    ∧ (∀ i : BitVec 5, s.cfg.cap ≤ i.toNat → exec (.wrTxbuf i v) s = .refused .reservedAccess)

/-! ### Frames and the consumer -/

/-- R211 to R216, R220, R223: the consumer's duty for a frame taken from the packet mailbox, as the operations it
issues next: RX_REARM, UNMASK, the frame's driver call, and one done ack, which is WR TXBUF[0] 0x64, WR TXLEN 1 and
TX_SEND. That these are issued one by one is the model's reading (notes/assumptions/11.md). -/
def Obligations.HostFrameDuty : Prop :=
  ∀ (s : State) (i : Instr), HostToDevice i → i.wf s.cfg = true →
    exec i s = .next (withActs ([.access 0x8002#16, .access 0x8005#16] ++ (driverCalls i).map .driver
      ++ [.access 0xE064#16, .access 0x8B01#16, .access 0x8003#16]) s)

/-- R217, R218, R96: the two frames the consumer sends, as SENDFRAME expands. That its accesses are issued one by one
is the model's reading (notes/assumptions/11.md). -/
def Obligations.DeviceFramesSent : Prop :=
  ∀ (s : State) (a c : Byte),
    (3 ≤ s.cfg.cap → exec (.frameDecoderEvent a c) s = .next (withActs
      [.access 0xE069#16, .access (0xE1#8 ++ a), .access (0xE2#8 ++ c), .access 0x8B03#16, .access 0x8003#16] s))
    ∧ (1 ≤ s.cfg.cap → exec .frameDone s = .next (withActs
      [.access 0xE064#16, .access 0x8B01#16, .access 0x8003#16] s))

/-- A frame longer than CAP, which no mailbox holds (R89) and TX_SEND never sends (R148), is refused: the model's choice
(notes/assumptions/26.md). -/
def Obligations.OverlongFrameRefused : Prop :=
  ∀ (s : State) (i : Instr), (HostToDevice i ∨ i = .frameDone ∨ ∃ a c, i = .frameDecoderEvent a c) →
    i.wf s.cfg = false → exec i s = .refused .frameTooLong

/-- R220: the duty carried out: from a state in which the consumer is awake and no event is latched, the turns of a
host frame's duty make its driver call, re-arm the framer and send exactly one done ack. -/
def Obligations.DutyActsAndAcknowledges : Prop :=
  ∀ (s : State) (i : Instr) (rest : List ConsumerAct), s.cfg.wf = true → HostToDevice i → i.wf s.cfg = true →
    s.ids.sleep = false → NoLatch s → s.con.prog = .takeFrame (match encode i with | .frameIn b => b | _ => []) :: rest →
    ∃ t, RunsTo (List.replicate (6 + (driverCalls i).length) .consumer) s t
      ∧ t.con.display = s.con.display ++ driverCalls i ∧ t.tx.q = s.tx.q ++ [0x01#8, 0x64#8]
      ∧ t.rx = { s.rx with phase := .len, len := 0x00#8, cnt := 0x00#8, rdy := false, en := true, lenerr := false,
                           ovr := false }
      ∧ t.edc = s.edc ∧ t.ids = { s.ids with gie := true } ∧ t.con.prog = rest

/-- R217, R221: sending a decoder event puts exactly `03 69 address command` on TXQ. -/
def Obligations.DecoderEventReachesTheLink : Prop :=
  ∀ (s : State) (a c : Byte) (rest : List ConsumerAct), s.cfg.wf = true → 3 ≤ s.cfg.cap → Memory.wf s.tx.buf = true →
    s.ids.sleep = false → s.con.prog = .sendFrame [0x03#8, 0x69#8, a, c] :: rest →
    ∃ t, RunsTo (List.replicate 6 .consumer) s t ∧ t.tx.q = s.tx.q ++ [0x03#8, 0x69#8, a, c]
      ∧ t.edc = s.edc ∧ t.rx = s.rx ∧ t.ids = s.ids ∧ t.con.prog = rest

/-- R222: a payload that is no host-to-device row gets no display action and, from the reference consumer, one done
ack: the parameter of I19 (notes/assumptions/13.md). -/
def Obligations.UnknownPayloadAcknowledged : Prop :=
  ∀ (s : State) (ts : List Turn) (bytes : List Byte) (rest : List ConsumerAct), s.cfg.wf = true →
    s.cfg.ackUnknown = true → s.ids.sleep = false → s.turns = .consumer :: ts → s.con.prog = .takeFrame bytes :: rest →
    (∀ i, encode i ≠ .frameIn bytes) →
    step s = .next { s with turns := ts, con := { s.con with prog :=
      [.access 0x8002#16, .access 0x8005#16, .access 0xE064#16, .access 0x8B01#16, .access 0x8003#16] ++ rest } }

/-- R220, R223: the reference consumer serves the packet mailbox: from the top of its loop, with a whole packet of a
known frame waiting and no event latched, it makes that frame's driver call, re-arms, sends exactly one done ack and
is back at the top of its loop. The number of turns is the model's (notes/assumptions/14.md). -/
def Obligations.ReferenceConsumerServesPacket : Prop :=
  ∀ (s : State) (i : Instr) (l : Byte) (p : List Byte), s.cfg.wf = true → i.wf s.cfg = true →
    encode i = .frameIn (l :: p) → s.ids.sleep = false → NoLatch s → s.con.prog = [.loop] →
    s.rx.rdy = true → s.rx.len = l → (∀ j (h : j < p.length), Memory.read s.rx.buf j = p[j]) →
    ∃ t, RunsTo (List.replicate (13 + 2 * p.length + (driverCalls i).length) .consumer) s t
      ∧ t.con.prog = [.loop] ∧ t.con.display = s.con.display ++ driverCalls i
      ∧ t.tx.q = s.tx.q ++ [0x01#8, 0x64#8]
      ∧ t.rx = { s.rx with phase := .len, len := 0x00#8, cnt := 0x00#8, rdy := false, en := true, lenerr := false,
                           ovr := false }
      ∧ t.edc = s.edc ∧ t.ids = { s.ids with gie := true }

/-- R221, R223: the reference consumer forwards a completed decoder frame: with the packet mailbox empty it sends
exactly one `i` frame with the word's address and command, re-arms the decoder and is back at the top of its loop. The
number of turns is the model's (notes/assumptions/14.md). -/
def Obligations.ReferenceConsumerForwardsEvent : Prop :=
  ∀ s : State, s.cfg.wf = true → 3 ≤ s.cfg.cap → Memory.wf s.tx.buf = true → s.ids.sleep = false → NoLatch s →
    s.con.prog = [.loop] → s.con.locals = [] → s.rx.rdy = false → s.edc.irrdy = true →
    ∃ t a c, RunsTo (List.replicate 17 .consumer) s t ∧ t.con.prog = [.loop]
      ∧ t.tx.q = s.tx.q ++ [0x03#8, 0x69#8, a, c]
      ∧ a.toNat = s.edc.word.toNat / 2 ^ 6 % 2 ^ 5 ∧ c.toNat = s.edc.word.toNat % 2 ^ 6
      ∧ t.edc = { s.edc with cnt := 14#4, word := 0#14, dstate := .BEGIN, edgeEn := true, irrdy := false }
      ∧ t.rx = s.rx ∧ t.con.display = s.con.display ∧ t.ids = { s.ids with gie := true }

/-- R223, R185, R296: with neither mailbox ready the reference consumer ends its loop in WAIT: unmasked, drained and
asleep in one step. It is awake after it if an edge or a tick was latched, or a byte that completes its frame, and asleep
otherwise (R174), a latched byte that completes no frame included. The number of turns is the model's
(notes/assumptions/14.md). -/
def Obligations.ReferenceConsumerWaits : Prop :=
  ∀ s : State, s.cfg.wf = true → s.ids.sleep = false → s.con.prog = [.loop] → s.rx.rdy = false → s.edc.irrdy = false →
    ∃ t, RunsTo (List.replicate 5 .consumer) s t ∧ t.con.prog = [.loop] ∧ t.ids.gie = true
      ∧ t.ids.epend = false ∧ t.ids.rpend = false ∧ t.ids.tpend = false
      ∧ (let completes := s.ids.rpend = true ∧ s.rx.phase = .data ∧ s.rx.cnt + 1#8 = s.rx.len
         (s.ids.epend = true ∨ s.ids.tpend = true ∨ completes → t.ids.sleep = false)
         ∧ (s.ids.epend = false ∧ s.ids.tpend = false ∧ ¬ completes → t.ids.sleep = true))

/-! ### Mailboxes, isolation, the link -/

/-- R70, R71, R27, R33: a full mailbox is stable: from a state that meets the invariants, until the matching re-arm no
operation changes its value or clears its ready flag. -/
def Obligations.FullMailboxIsStable : Prop :=
  ∀ (s t : State) (i : Instr), Inv s → exec i s = .next t →
    (s.edc.irrdy = true → i ≠ .cmdIrRearm → t.edc.irrdy = true ∧ t.edc.word = s.edc.word ∧ t.edc.edgeEn = false)
    ∧ (s.rx.rdy = true → i ≠ .cmdRxRearm →
        t.rx.rdy = true ∧ t.rx.len = s.rx.len ∧ t.rx.cnt = s.rx.cnt ∧ t.rx.buf = s.rx.buf ∧ t.rx.en = false)

/-- R269: who may write what: every field of the block is unchanged by every operation but those its row names (a
latched event's handler runs inside UNMASK and WAIT, R184, R185). What a latch holds is written by an arriving event
only: draining and the re-arms clear its flag (R175, R120, R146). -/
def Obligations.OnlyTheNamedWriters : Prop :=
  ∀ (s t : State) (i : Instr), exec i s = .next t →
    let event := (∃ lvl n, i = .edge lvl n) ∨ (∃ b, i = .rxbyte b) ∨ i = .tick
    let drains := i = .cmdUnmask ∨ i = .cmdWait
    (¬ (∃ lvl n, i = .edge lvl n) → ¬ drains → i ≠ .cmdIrRearm →
      t.edc.dstate = s.edc.dstate ∧ t.edc.cnt = s.edc.cnt ∧ t.edc.word = s.edc.word ∧ t.edc.edgeEn = s.edc.edgeEn
      ∧ t.edc.irrdy = s.edc.irrdy)
    ∧ (¬ (∃ lvl n, i = .edge lvl n) → ¬ drains → i ≠ .cmdClrdiag → t.edc.diag = s.edc.diag)
    ∧ (¬ (∃ b, i = .rxbyte b) → ¬ drains → i ≠ .cmdRxRearm → t.rx = s.rx)
    ∧ (¬ (∃ b, i = .rxbyte b) → ¬ drains → t.rx.buf = s.rx.buf)
    ∧ ((∀ v, i ≠ .wrTxlen v) → t.tx.len = s.tx.len)
    ∧ ((∀ k v, i ≠ .wrTxbuf k v) → t.tx.buf = s.tx.buf)
    ∧ (i ≠ .cmdTxSend → t.tx.q = s.tx.q)
    ∧ (i ≠ .cmdMask → ¬ drains → t.ids.gie = s.ids.gie)
    ∧ (¬ event → ¬ drains → i ≠ .cmdIrRearm → t.ids.epend = s.ids.epend)
    ∧ (¬ (∃ lvl n, i = .edge lvl n) → t.ids.ependT = s.ids.ependT ∧ t.ids.ependL = s.ids.ependL)
    ∧ (¬ event → ¬ drains → i ≠ .cmdRxRearm → t.ids.rpend = s.ids.rpend)
    ∧ (¬ (∃ b, i = .rxbyte b) → t.ids.rpendB = s.ids.rpendB)
    ∧ (¬ event → ¬ drains → t.ids.tpend = s.ids.tpend)
    ∧ (¬ event → ¬ drains → i ≠ .cmdClrdiag → t.ids.evovr = s.ids.evovr)
    ∧ (¬ event → ¬ drains → t.ids.sleep = s.ids.sleep)
    ∧ t.cfg = s.cfg ∧ t.link = s.link ∧ t.turns = s.turns

/-- R67, R68, R240, R247: no byte of TXQ is lost, changed or overtaken: a step appends bytes at its end, or the link
partner takes the one at its head. -/
def Obligations.TransmitQueueLosesNothing : Prop :=
  ∀ s t : State, step s = .next t →
    (∃ sent, t.tx.q = s.tx.q ++ sent)
    ∨ (∃ m ts b, s.turns = .host m :: ts ∧ s.tx.q = b :: t.tx.q)

/-- R241, R243, R248, R249: the host writes a frame of its client commands, or any prefix of one, and its reply is
awaited and read with the configured number of attempts. That a short write is read for a reply too, and recorded, is the
model's reading (notes/assumptions/15.md). -/
def Obligations.HostWritesFrame : Prop :=
  ∀ (s : State) (ts : List Turn) (p : List Byte) (n : Nat), s.cfg.wf = true → s.turns = .host (.send p n) :: ts →
    s.link.awaiting = false → s.link.read = .idle → ClientFrame s.cfg p → p.length ≤ s.cfg.cap →
    (p.length + 1 ≤ n → step s = .next { s with turns := ts, link := { s.link with
        wire := s.link.wire ++ BitVec.ofNat 8 p.length :: p, awaiting := true
        read := .length s.cfg.hostLenAttempts } })
    ∧ (n ≤ p.length → step s = .next { s with turns := ts, link := { s.link with
        wire := s.link.wire ++ (BitVec.ofNat 8 p.length :: p).take n, awaiting := true
        read := .length s.cfg.hostLenAttempts, log := s.link.log ++ [.shortWrite] } })

/-- R244, R248, R249 (I12, D40): a host that awaits a reply, or would send an illegal length or a frame that no client
command produces, has no send: the step is refused. So it is while a frame is being read, which is the model's reading
(notes/assumptions/17.md). -/
def Obligations.HostDutiesEnforced : Prop :=
  ∀ (s : State) (ts : List Turn) (p : List Byte) (n : Nat), s.cfg.wf = true → s.turns = .host (.send p n) :: ts →
    s.link.awaiting = true ∨ s.link.read ≠ .idle ∨ p.length = 0 ∨ s.cfg.cap < p.length ∨ ¬ ClientFrame s.cfg p →
    step s = .refused .hostDuty

/-- R240, R242, R149 outbound half: the host reads one frame: a successful attempt and one byte a move take exactly
`L` and the `L` payload bytes off the head of TXQ, and the frame is concluded on; a length byte 0 is the empty frame
(D40). One byte a move is the model's
(notes/assumptions/15.md). -/
def Obligations.HostReadTakesOneFrame : Prop :=
  ∀ (s : State) (k : Nat) (p rest : List Byte), s.cfg.wf = true → s.link.read = .length (k + 1) →
    p.length ≤ 255 → s.tx.q = BitVec.ofNat 8 p.length :: p ++ rest →
    RunsTo (.host (.attempt true) :: List.replicate p.length (.host .receive)) s
      { s with turns := [], tx := { s.tx with q := rest }, link := s.link.conclude p }

/-- R243, R245: what the host concludes: while a reply is awaited only `d` (done) is a success; unsolicited, an `i`
frame goes on to the host and anything else is ignored. -/
def Obligations.HostConclusions : Prop :=
  ∀ (l : Link) (p : List Byte) (a c : Byte),
    (l.awaiting = true → l.conclude [0x64#8] = { l with awaiting := false, read := .idle, log := l.log ++ [.commandOk] })
    ∧ (l.awaiting = true → p ≠ [0x64#8] →
        l.conclude p = { l with awaiting := false, read := .idle, log := l.log ++ [.commandFailed (some p)] })
    ∧ (l.awaiting = false →
        l.conclude [0x69#8, a, c] = { l with read := .idle, log := l.log ++ [.decoderEvent a c] })
    ∧ (l.awaiting = false → (∀ x y, p ≠ [0x69#8, x, y]) →
        l.conclude p = { l with read := .idle, log := l.log ++ [.ignored p] })

/-- R242, R243: when every attempt at a length byte fails the host warns and abandons the read, and the command it was
for fails. That a failing attempt takes nothing from TXQ is the model's reading (notes/assumptions/16.md). -/
def Obligations.HostAbandonsAfterAllAttempts : Prop :=
  ∀ (s : State) (k : Nat), s.cfg.wf = true → s.link.read = .length (k + 1) →
    RunsTo (List.replicate (k + 1) (.host (.attempt false))) s
      { s with turns := [], link := { s.link with
          awaiting := false, read := .idle
          log := s.link.log ++ .readAbandoned :: (if s.link.awaiting then [.commandFailed none] else []) } }

/-- R299: the `i` frame and the ack race: a decoder event that reaches TXQ before the ack is read as the reply, and the
host counts the command as failed. One byte a move is the model's (notes/assumptions/15.md). -/
def Obligations.EventBeforeAckFailsTheCommand : Prop :=
  ∀ (s : State) (k : Nat) (a c : Byte) (rest : List Byte), s.cfg.wf = true → s.link.read = .length (k + 1) →
    s.link.awaiting = true → s.tx.q = [0x03#8, 0x69#8, a, c] ++ rest →
    ∃ t, RunsTo (.host (.attempt true) :: List.replicate 3 (.host .receive)) s t
      ∧ t.tx.q = rest ∧ t.link.awaiting = false ∧ t.link.log = s.link.log ++ [.commandFailed (some [0x69#8, a, c])]

/-- R245, R246, R247: polling starts a read only when no reply is awaited and a byte is ready; an exit ends the host,
no further byte of it reaches the block, and the block keeps its state. That the next host starts awaiting nothing,
and that a poll that is not due changes nothing, are the model's readings (notes/assumptions/18.md, 15.md). -/
def Obligations.HostPollAndExit : Prop :=
  ∀ (s : State) (ts : List Turn), s.cfg.wf = true →
    (s.turns = .host .poll :: ts → s.link.awaiting = false → s.link.read = .idle → s.tx.q ≠ [] →
      step s = .next { s with turns := ts, link := { s.link with read := .length s.cfg.hostLenAttempts } })
    ∧ (s.turns = .host .poll :: ts → (s.link.awaiting = true ∨ s.link.read ≠ .idle ∨ s.tx.q = []) →
      step s = .next { s with turns := ts })
    ∧ (s.turns = .host .exit :: ts → ∃ l, step s = .next { s with turns := ts, link := l }
      ∧ l.wire = [] ∧ l.awaiting = false ∧ l.read = .idle)

/-- R53, R271: a pin transition is an EDGE event with the level reached and the elapsed time in ticks, which saturates
and does not wrap. With TICK_NS = 0 the count is 0, the model's choice (notes/assumptions/20.md). -/
def Obligations.CaptureSaturates : Prop :=
  ∀ (s : State) (ts : List Turn) (dt : Nat) (lvl : Bool), s.cfg.wf = true → s.turns = .pin dt lvl :: ts →
    ∃ t : Ticks, step s = exec (.edge lvl t) { s with turns := ts }
      ∧ t.toNat = min (dt / s.cfg.tickNs) (2 ^ s.cfg.wTick - 1)
end

