-- ==== Sys2Proof/Laws/Decode.lean ====
section
/-! SUPPORT. The laws of the encoder and the decoder, one per form: what the fields of an encoded word are, and what the decoder gives on it. -/

namespace Sys2Proof

/-! ### Event words -/

/-- R81. -/
theorem decode_edge (lvl : Bool) (t : Ticks) : decode (.event (encodeEdge lvl t)) = .ok (.edge lvl t) := by
  have kind : (encodeEdge lvl t).extractLsb' 28 4 = 1#4 := by
    apply BitVec.eq_of_getLsbD_eq; intro k hk
    simp only [encodeEdge, BitVec.getLsbD_extractLsb', BitVec.getLsbD_append]
    interval_cases k <;> simp
  have zeros : (encodeEdge lvl t).extractLsb' 25 3 = 0#3 := by
    apply BitVec.eq_of_getLsbD_eq; intro k hk
    simp only [encodeEdge, BitVec.getLsbD_extractLsb', BitVec.getLsbD_append]
    interval_cases k <;> simp
  have ticks : (encodeEdge lvl t).extractLsb' 0 24 = t := by
    apply BitVec.eq_of_getLsbD_eq; intro k hk
    simp only [encodeEdge, BitVec.getLsbD_extractLsb', BitVec.getLsbD_append]
    interval_cases k <;> simp
  have level : (encodeEdge lvl t).getLsbD 24 = lvl := by
    simp only [encodeEdge, BitVec.getLsbD_append]; simp
  simp only [decode, decodeEvent, kind, zeros, ticks, level, if_true]

/-- R82. -/
theorem decode_rxbyte (b : Byte) : decode (.event (encodeRxbyte b)) = .ok (.rxbyte b) := by
  have kind : (encodeRxbyte b).extractLsb' 28 4 = 2#4 := by
    apply BitVec.eq_of_getLsbD_eq; intro k hk
    simp only [encodeRxbyte, BitVec.getLsbD_extractLsb', BitVec.getLsbD_append]
    interval_cases k <;> simp
  have zeros : (encodeRxbyte b).extractLsb' 8 20 = 0#20 := by
    apply BitVec.eq_of_getLsbD_eq; intro k hk
    simp only [encodeRxbyte, BitVec.getLsbD_extractLsb', BitVec.getLsbD_append]
    interval_cases k <;> simp
  have data : (encodeRxbyte b).extractLsb' 0 8 = b := by
    apply BitVec.eq_of_getLsbD_eq; intro k hk
    simp only [encodeRxbyte, BitVec.getLsbD_extractLsb', BitVec.getLsbD_append]
    interval_cases k <;> simp
  simp [decode, decodeEvent, kind, zeros, data]

/-! ### Access words -/

theorem encodeWrite_offset (off : Offset) (v : Byte) : (encodeWrite off v).extractLsb' 8 7 = off := by
  apply BitVec.eq_of_getLsbD_eq; intro k hk
  simp only [encodeWrite, BitVec.getLsbD_extractLsb', BitVec.getLsbD_append]
  interval_cases k <;> simp

theorem encodeWrite_data (off : Offset) (v : Byte) : (encodeWrite off v).extractLsb' 0 8 = v := by
  apply BitVec.eq_of_getLsbD_eq; intro k hk
  simp only [encodeWrite, BitVec.getLsbD_extractLsb', BitVec.getLsbD_append]
  interval_cases k <;> simp

theorem encodeWrite_direction (off : Offset) (v : Byte) : (encodeWrite off v).getLsbD 15 = true := by
  simp only [encodeWrite, BitVec.getLsbD_append]; simp

theorem encodeRead_offset (off : Offset) : (encodeRead off).extractLsb' 8 7 = off := by
  apply BitVec.eq_of_getLsbD_eq; intro k hk
  simp only [encodeRead, BitVec.getLsbD_extractLsb', BitVec.getLsbD_append]
  interval_cases k <;> simp

theorem encodeRead_direction (off : Offset) : (encodeRead off).getLsbD 15 = false := by
  simp only [encodeRead, BitVec.getLsbD_append]; simp

/-- R86, R51, R88: everything a write can decode to. -/
theorem decode_write (off : Offset) (v : Byte) : decode (.access (encodeWrite off v)) =
    if off = 0x00#7 then decodeCommand v
    else if off = 0x0B#7 then .ok (.wrTxlen v)
    else if off.extractLsb' 5 2 = 0b11#2 then .ok (.wrTxbuf (off.extractLsb' 0 5) v)
    else .error .reservedAccess := by
  simp only [decode, decodeAccess, encodeWrite_offset, encodeWrite_data, encodeWrite_direction]; rfl

/-- R86: a read decodes to a read, whatever the offset. -/
theorem decode_read (off : Offset) : decode (.access (encodeRead off)) = .ok (.rd off) := by
  simp only [decode, decodeAccess, encodeRead_offset, encodeRead_direction, if_true]

/-- R40, R86: TXBUF[i] is at offset 0x60 + i. -/
theorem decode_wrTxbuf (i : BitVec 5) (v : Byte) :
    decode (.access (encodeWriteTxbuf i v)) = .ok (.wrTxbuf i v) := by
  have high : (0b11#2 ++ i : BitVec 7).extractLsb' 5 2 = 3#2 := by
    apply BitVec.eq_of_getLsbD_eq; intro k hk
    simp only [BitVec.getLsbD_extractLsb', BitVec.getLsbD_append]
    interval_cases k <;> simp
  have low : (0b11#2 ++ i : BitVec 7).extractLsb' 0 5 = i := by
    apply BitVec.eq_of_getLsbD_eq; intro k hk
    simp only [BitVec.getLsbD_extractLsb', BitVec.getLsbD_append]
    interval_cases k <;> simp
  have notCmd : (0b11#2 ++ i : BitVec 7) ≠ 0x00#7 := by intro h; rw [h] at high; revert high; decide
  have notTxlen : (0b11#2 ++ i : BitVec 7) ≠ 0x0B#7 := by intro h; rw [h] at high; revert high; decide
  rw [encodeWriteTxbuf, decode_write, if_neg notCmd, if_neg notTxlen, high, low]; rfl

/-! ### Frames -/

/-- R89: what a frame decodes to is its payload's, and it is that payload behind its length byte. -/
theorem decodeFrame_ok {payload : List Byte → Except DecodeError Instr} {bytes : List Byte} {i : Instr}
    (h : decodeFrame payload bytes = .ok i) : ∃ p, bytes = frameBytes p ∧ payload p = .ok i := by
  cases bytes with
  | nil => simp [decodeFrame] at h
  | cons l p =>
    simp only [decodeFrame] at h
    split_ifs at h with hl
    exact ⟨p, by simp [frameBytes, ← hl], h⟩

/-- R89: a payload of at most 255 bytes behind its length byte decodes as that payload. -/
theorem decodeFrame_frameBytes (payload : List Byte → Except DecodeError Instr) {p : List Byte} (h : p.length < 256) :
    decodeFrame payload (frameBytes p) = payload p := by
  simp [decodeFrame, frameBytes, Nat.mod_eq_of_lt h]

end Sys2Proof
end

