-- ==== Sys2Proof/Laws/Memory.lean ====
section
/-! SUPPORT. The laws of the packet buffers: every operation keeps the canonical form and the size, a read after a write gives the byte written, and every other byte stays. -/

namespace Sys2Proof.Machine

@[simp] theorem Memory.read_nil (i : Nat) : Memory.read [] i = 0x00#8 := rfl

theorem Memory.wfFrom_mono {lo lo' : Nat} {m : Memory} (h : lo ≤ lo') (w : Memory.wfFrom lo' m = true) :
    Memory.wfFrom lo m = true := by
  cases m with
  | nil => rfl
  | cons c m =>
    obtain ⟨k, v⟩ := c
    simp only [Memory.wfFrom, Bool.and_eq_true, decide_eq_true_eq] at w ⊢
    exact ⟨⟨h.trans w.1.1, w.1.2⟩, w.2⟩

/-- No cell below the bound: the byte reads 0x00. -/
theorem Memory.read_below_wfFrom {lo i : Nat} {m : Memory} (w : Memory.wfFrom lo m = true) (h : i < lo) :
    Memory.read m i = 0x00#8 := by
  induction m generalizing lo with
  | nil => rfl
  | cons c m ih =>
    obtain ⟨k, v⟩ := c
    simp only [Memory.wfFrom, Bool.and_eq_true, decide_eq_true_eq] at w
    have hk : k ≠ i := by omega
    simp only [Memory.read, if_neg hk]
    exact ih w.2 (by omega)

theorem Memory.write_wfFrom {lo i : Nat} {m : Memory} (b : Byte) (w : Memory.wfFrom lo m = true) (h : lo ≤ i) :
    Memory.wfFrom lo (Memory.write m i b) = true := by
  induction m generalizing lo with
  | nil => by_cases hb : b = 0x00#8 <;> simp [Memory.write, Memory.wfFrom, hb, h]
  | cons c m ih =>
    obtain ⟨k, v⟩ := c
    simp only [Memory.wfFrom, Bool.and_eq_true, decide_eq_true_eq] at w
    obtain ⟨⟨hlo, hv⟩, hm⟩ := w
    rcases Nat.lt_trichotomy i k with hik | hik | hik
    · have hne : i ≠ k := by omega
      by_cases hb : b = 0x00#8
      · simp [Memory.write, Memory.wfFrom, hne, hik, hb, hlo, hv, hm]
      · have : i + 1 ≤ k := hik
        simp [Memory.write, Memory.wfFrom, hne, hik, hb, h, hv, hm, this]
    · subst hik
      by_cases hb : b = 0x00#8
      · simp only [Memory.write, if_true, hb]
        exact Memory.wfFrom_mono (by omega) hm
      · simp [Memory.write, Memory.wfFrom, hb, h, hm]
    · have hne : i ≠ k := by omega
      have hlt : ¬ i < k := by omega
      simp only [Memory.write, if_neg hne, if_neg hlt, Memory.wfFrom, Bool.and_eq_true, decide_eq_true_eq]
      exact ⟨⟨hlo, hv⟩, ih hm (by omega)⟩

/-- A write keeps the canonical form. -/
theorem Memory.write_wf {m : Memory} (i : Nat) (b : Byte) (w : Memory.wf m = true) :
    Memory.wf (Memory.write m i b) = true := Memory.write_wfFrom b w (Nat.zero_le i)

/-- What every byte reads after a write. -/
theorem Memory.read_write {lo : Nat} {m : Memory} (i j : Nat) (b : Byte) (w : Memory.wfFrom lo m = true) :
    Memory.read (Memory.write m i b) j = if j = i then b else Memory.read m j := by
  induction m generalizing lo with
  | nil =>
    by_cases hb : b = 0x00#8 <;> by_cases hj : j = i <;> simp [Memory.write, Memory.read, hb, hj]
    exact fun h => absurd h.symm hj
  | cons c m ih =>
    obtain ⟨k, v⟩ := c
    simp only [Memory.wfFrom, Bool.and_eq_true, decide_eq_true_eq] at w
    obtain ⟨⟨_, hv⟩, hm⟩ := w
    rcases Nat.lt_trichotomy i k with hik | hik | hik
    · have hne : i ≠ k := by omega
      by_cases hb : b = 0x00#8
      · simp only [Memory.write, if_neg hne, if_pos hik, hb, if_true]
        split_ifs with hj
        · subst hj
          have : k ≠ j := by omega
          simp only [Memory.read, if_neg this]
          exact Memory.read_below_wfFrom hm (by omega)
        · rfl
      · simp only [Memory.write, if_neg hne, if_pos hik, hb, if_false]
        by_cases hj : j = i
        · subst hj; simp [Memory.read]
        · have : i ≠ j := Ne.symm hj
          rw [Memory.read, if_neg this, if_neg hj]
    · subst hik
      by_cases hb : b = 0x00#8
      · simp only [Memory.write, if_true, hb]
        split_ifs with hj
        · subst hj; exact Memory.read_below_wfFrom hm (by omega)
        · simp [Memory.read, Ne.symm hj]
      · simp only [Memory.write, if_true, hb, if_false]
        by_cases hj : j = i
        · subst hj; simp [Memory.read]
        · have : i ≠ j := Ne.symm hj
          simp only [Memory.read, if_neg this, if_neg hj]
    · have hne : i ≠ k := by omega
      have hlt : ¬ i < k := by omega
      simp only [Memory.write, if_neg hne, if_neg hlt, Memory.read]
      by_cases hk : k = j
      · subst hk; simp [Ne.symm hne]
      · simp only [if_neg hk]; exact ih hm

/-- A write below the bound keeps every cell below it. -/
theorem cellsBelow_write {n i : Nat} {m : Memory} (b : Byte) (h : cellsBelow n m = true) (hi : i < n) :
    cellsBelow n (Memory.write m i b) = true := by
  induction m with
  | nil => by_cases hb : b = 0x00#8 <;> simp [Memory.write, cellsBelow, hb, hi]
  | cons c m ih =>
    obtain ⟨k, v⟩ := c
    simp only [cellsBelow, List.all_cons, Bool.and_eq_true, decide_eq_true_eq] at h ih ⊢
    obtain ⟨hk, hm⟩ := h
    simp only [Memory.write]
    split_ifs <;> simp_all <;> assumption

@[simp] theorem Memory.take_length (m : Memory) (n : Nat) : (Memory.take m n).length = n := by simp [Memory.take]

/-- What a buffer's first bytes are, one by one. -/
theorem Memory.take_getElem (m : Memory) (n i : Nat) (h : i < (Memory.take m n).length) :
    (Memory.take m n)[i] = Memory.read m i := by simp [Memory.take]

/-- Both buffers are in canonical form at reset, under any configuration (R290). -/
theorem State.resetWith_bufs_wf (c : Config) :
    Memory.wf (State.resetWith c).rx.buf = true ∧ Memory.wf (State.resetWith c).tx.buf = true := ⟨rfl, rfl⟩

end Sys2Proof.Machine
end

