-- ==== Sys2Proof/Laws/State.lean ====
section
/-! SUPPORT. What each named update does to each part of the state: one lemma per field per update, true by rfl where it is one, so that no later proof unfolds a record update. -/

namespace Sys2Proof.Machine
@[simp] theorem State.wake_cfg (s : State) : s.wake.cfg = s.cfg := rfl
@[simp] theorem State.wake_edc (s : State) : s.wake.edc = s.edc := rfl
@[simp] theorem State.wake_rx (s : State) : s.wake.rx = s.rx := rfl
@[simp] theorem State.wake_tx (s : State) : s.wake.tx = s.tx := rfl
@[simp] theorem State.wake_con (s : State) : s.wake.con = s.con := rfl
@[simp] theorem State.wake_link (s : State) : s.wake.link = s.link := rfl
@[simp] theorem State.wake_turns (s : State) : s.wake.turns = s.turns := rfl
@[simp] theorem State.wake_ids_gie (s : State) : s.wake.ids.gie = s.ids.gie := rfl
@[simp] theorem State.wake_ids_epend (s : State) : s.wake.ids.epend = s.ids.epend := rfl
@[simp] theorem State.wake_ids_ependT (s : State) : s.wake.ids.ependT = s.ids.ependT := rfl
@[simp] theorem State.wake_ids_ependL (s : State) : s.wake.ids.ependL = s.ids.ependL := rfl
@[simp] theorem State.wake_ids_rpend (s : State) : s.wake.ids.rpend = s.ids.rpend := rfl
@[simp] theorem State.wake_ids_rpendB (s : State) : s.wake.ids.rpendB = s.ids.rpendB := rfl
@[simp] theorem State.wake_ids_tpend (s : State) : s.wake.ids.tpend = s.ids.tpend := rfl
@[simp] theorem State.wake_ids_evovr (s : State) : s.wake.ids.evovr = s.ids.evovr := rfl
@[simp] theorem State.wake_ids_sleep (s : State) : s.wake.ids.sleep = false := rfl
@[simp] theorem State.schedule_cfg (acts : List ConsumerAct) (s : State) : (s.schedule acts).cfg = s.cfg := rfl
@[simp] theorem State.schedule_edc (acts : List ConsumerAct) (s : State) : (s.schedule acts).edc = s.edc := rfl
@[simp] theorem State.schedule_rx (acts : List ConsumerAct) (s : State) : (s.schedule acts).rx = s.rx := rfl
@[simp] theorem State.schedule_tx (acts : List ConsumerAct) (s : State) : (s.schedule acts).tx = s.tx := rfl
@[simp] theorem State.schedule_ids (acts : List ConsumerAct) (s : State) : (s.schedule acts).ids = s.ids := rfl
@[simp] theorem State.schedule_link (acts : List ConsumerAct) (s : State) : (s.schedule acts).link = s.link := rfl
@[simp] theorem State.schedule_turns (acts : List ConsumerAct) (s : State) : (s.schedule acts).turns = s.turns := rfl
@[simp] theorem State.schedule_con_rdData (acts : List ConsumerAct) (s : State) : (s.schedule acts).con.rdData = s.con.rdData := rfl
@[simp] theorem State.schedule_con_freeCount (acts : List ConsumerAct) (s : State) : (s.schedule acts).con.freeCount = s.con.freeCount := rfl
@[simp] theorem State.schedule_con_locals (acts : List ConsumerAct) (s : State) : (s.schedule acts).con.locals = s.con.locals := rfl
@[simp] theorem State.schedule_con_display (acts : List ConsumerAct) (s : State) : (s.schedule acts).con.display = s.con.display := rfl
@[simp] theorem State.schedule_con_prog (acts : List ConsumerAct) (s : State) : (s.schedule acts).con.prog = acts ++ s.con.prog := rfl
@[simp] theorem Edc.leading_dstate (e : Edc) : e.leading.dstate = .MID1 := rfl
@[simp] theorem Edc.leading_cnt (e : Edc) : e.leading.cnt = e.cnt - 1#4 := rfl
@[simp] theorem Edc.leading_word (e : Edc) : e.leading.word = e.word ||| (1#14 <<< (e.cnt - 1#4).toNat) := rfl
@[simp] theorem Edc.leading_edgeEn (e : Edc) : e.leading.edgeEn = e.edgeEn := rfl
@[simp] theorem Edc.leading_irrdy (e : Edc) : e.leading.irrdy = e.irrdy := rfl
@[simp] theorem Edc.leading_diag (e : Edc) : e.leading.diag = e.diag := rfl
@[simp] theorem Edc.restart_dstate (cause : Cause) (e : Edc) : (e.restart cause).dstate = .MID1 := rfl
@[simp] theorem Edc.restart_cnt (cause : Cause) (e : Edc) : (e.restart cause).cnt = 13#4 := by
  simp [Edc.restart]
@[simp] theorem Edc.restart_word (cause : Cause) (e : Edc) : (e.restart cause).word = 0x2000#14 := by
  simp [Edc.restart]
@[simp] theorem Edc.restart_edgeEn (cause : Cause) (e : Edc) : (e.restart cause).edgeEn = e.edgeEn := rfl
@[simp] theorem Edc.restart_irrdy (cause : Cause) (e : Edc) : (e.restart cause).irrdy = e.irrdy := rfl
@[simp] theorem Edc.restart_diag (cause : Cause) (e : Edc) : (e.restart cause).diag = cause := rfl
@[simp] theorem Edc.takeBit_dstate (n : DState) (e : Edc) : (e.takeBit n).dstate = e.dstate := rfl
@[simp] theorem Edc.takeBit_cnt (n : DState) (e : Edc) : (e.takeBit n).cnt = e.cnt - 1#4 := rfl
@[simp] theorem Edc.takeBit_edgeEn (n : DState) (e : Edc) : (e.takeBit n).edgeEn = e.edgeEn := rfl
@[simp] theorem Edc.takeBit_irrdy (n : DState) (e : Edc) : (e.takeBit n).irrdy = e.irrdy := rfl
@[simp] theorem Edc.takeBit_diag (n : DState) (e : Edc) : (e.takeBit n).diag = e.diag := rfl
@[simp] theorem Edc.takeBit_word (n : DState) (e : Edc) : (e.takeBit n).word = if n = .MID1 then e.word ||| (1#14 <<< (e.cnt - 1#4).toNat) else e.word := rfl
@[simp] theorem Edc.rearm_dstate (e : Edc) : e.rearm.dstate = .BEGIN := rfl
@[simp] theorem Edc.rearm_cnt (e : Edc) : e.rearm.cnt = 14#4 := rfl
@[simp] theorem Edc.rearm_word (e : Edc) : e.rearm.word = 0#14 := rfl
@[simp] theorem Edc.rearm_edgeEn (e : Edc) : e.rearm.edgeEn = true := rfl
@[simp] theorem Edc.rearm_irrdy (e : Edc) : e.rearm.irrdy = false := rfl
@[simp] theorem Edc.rearm_diag (e : Edc) : e.rearm.diag = e.diag := rfl
@[simp] theorem Rx.rearm_phase (r : Rx) : r.rearm.phase = .len := rfl
@[simp] theorem Rx.rearm_len (r : Rx) : r.rearm.len = 0x00#8 := rfl
@[simp] theorem Rx.rearm_cnt (r : Rx) : r.rearm.cnt = 0x00#8 := rfl
@[simp] theorem Rx.rearm_buf (r : Rx) : r.rearm.buf = r.buf := rfl
@[simp] theorem Rx.rearm_rdy (r : Rx) : r.rearm.rdy = false := rfl
@[simp] theorem Rx.rearm_en (r : Rx) : r.rearm.en = true := rfl
@[simp] theorem Rx.rearm_lenerr (r : Rx) : r.rearm.lenerr = false := rfl
@[simp] theorem Rx.rearm_ovr (r : Rx) : r.rearm.ovr = false := rfl
@[simp] theorem Tx.send_len (t : Tx) : t.send.len = t.len := rfl
@[simp] theorem Tx.send_buf (t : Tx) : t.send.buf = t.buf := rfl
@[simp] theorem Tx.send_q (t : Tx) : t.send.q = t.q ++ t.len :: Memory.take t.buf t.len.toNat := rfl

end Sys2Proof.Machine
end

