-- ==== Sys2Proof/Laws/Ops.lean ====
section
/-! SUPPORT. One law per shared operation: everything it can do, for later proofs to cite instead of unfolding it. -/

namespace Sys2Proof.Machine

/-! ### Decoder unit -/

/-- R114: the table leads from its four states to its four states. -/
theorem nextState_table {d : DState} (k : Interval) (l : Bool) (h : TableState d) : TableState (nextState d k l) := by
  rcases h with rfl | rfl | rfl | rfl <;> cases k <;> cases l <;> simp [nextState, TableState]

/-- A table state is neither BEGIN nor past the guard of R113. -/
theorem TableState_guard {d : DState} (h : TableState d) :
    d ≠ .BEGIN ∧ ¬ DState.START0.code.toNat < d.code.toNat := by
  rcases h with rfl | rfl | rfl | rfl <;> decide

/-- R24: counting down from anything but 0 does not wrap. -/
theorem cnt_pred {c : BitVec 4} (h : c ≠ 0#4) : (c - 1#4).toNat = c.toNat - 1 := by revert h; revert c; decide

/-- R116: what a restart with its replay leaves. -/
theorem Edc.restart_eq (cause : Cause) (e : Edc) : e.restart cause = restarted cause e := by
  simp [Edc.restart, Edc.leading, restarted]

/-- The bit that is set at a position reads 0 below it. -/
theorem one_shift_below {c : BitVec 4} {j : Nat} (h : j < c.toNat) : (1#14 <<< c.toNat).getLsbD j = false := by
  simp [BitVec.getLsbD_shiftLeft, h]

/-! ### Register window -/

/-- R40: past TXLEN the map holds the two buffers and nothing else. -/
theorem regAt_high {c : Config} {off : Offset} (h : 0x0B < off.toNat) : regAt c off =
    if 0x40 ≤ off.toNat ∧ off.toNat ≤ 0x40 + c.cap then some (.rxbuf (off.toNat - 0x40))
    else if 0x60 ≤ off.toNat ∧ off.toNat < 0x60 + c.cap then some (.txbuf (off.toNat - 0x60)) else none := by
  have past : ∀ k ≤ 0x0B, off.toNat ≠ k := fun k hk => by omega
  simp only [regAt, past, Nat.reduceLeDiff, if_false]

theorem regAt_rxbuf {c : Config} {i : Nat} (h : i ≤ c.cap) (hc : c.cap ≤ 31) :
    regAt c (BitVec.ofNat 7 (0x40 + i)) = some (.rxbuf i) := by
  have e : (BitVec.ofNat 7 (0x40 + i)).toNat = 0x40 + i := by rw [BitVec.toNat_ofNat]; omega
  rw [regAt_high (by omega), e, if_pos (by omega)]; simp

theorem regAt_txbuf {c : Config} {i : Nat} (h : i < c.cap) (hc : c.cap ≤ 31) :
    regAt c (BitVec.ofNat 7 (0x60 + i)) = some (.txbuf i) := by
  have e : (BitVec.ofNat 7 (0x60 + i)).toNat = 0x60 + i := by rw [BitVec.toNat_ofNat]; omega
  rw [regAt_high (by omega), e, if_neg (by omega), if_pos (by omega)]; simp

/-- R180: a read touches nothing but the byte it returns and the count of free values. -/
theorem readRegister_frame (r : Reg) (s : State) :
    ∃ v n, readRegister r s = { s with con := { s.con with rdData := v, freeCount := n } } := by
  unfold readRegister; split_ifs
  · exact ⟨_, _, rfl⟩
  · exact ⟨_, s.con.freeCount, rfl⟩

/-! ### Dispatcher -/

/-- R171 to R174: whatever arrives, only the decoder, the receive side and the latches can change, and GIE stays. -/
theorem arrive_frame (ev : Event) (s : State) :
    ∃ e r d, arrive ev s = { s with edc := e, rx := r, ids := d } ∧ d.gie = s.ids.gie := by
  unfold arrive
  split_ifs
  · cases ev <;> simp only [handle, State.wake] <;> (try split_ifs) <;> exact ⟨_, _, _, rfl, rfl⟩
  · refine ⟨_, _, _, rfl, ?_⟩
    cases ev <;> simp only [Ids.latch] <;> split_ifs <;> rfl
  · cases ev <;> exact ⟨_, _, _, rfl, rfl⟩

/-- R171, R173, R174: an edge that is accepted and unmasked runs the EDGE handler and wakes the consumer. -/
theorem exec_edge_handled {s : State} {lvl : Bool} {t : Ticks} (h : EdgeHandled s t) :
    exec (.edge lvl t) s = .next (afterEdge s (s.edc.edge s.cfg lvl t.toNat)) := by
  obtain ⟨h1, h2, h3⟩ := h
  simp [exec, execEdge, h3, arrive, sourceEnabled, h1, h2, handle, State.wake, afterEdge, awake]

/-! ### Frames -/

/-- R220: a frame taken only puts actions before the rest of the consumer's program. -/
theorem takeFrame_next {n : Nat} {calls : List DriverCall} {s t : State} (h : takeFrame n calls s = .next t) :
    t = s.schedule (dutyActs calls) := by
  unfold takeFrame at h; split_ifs at h; simpa using h.symm

/-- R96: a frame sent only puts actions before the rest of the consumer's program. -/
theorem sendFrame_next {p : List Byte} {s t : State} (h : sendFrame p s = .next t) :
    t = s.schedule (sendFrameActs p) := by
  unfold sendFrame at h; split_ifs at h; simpa using h.symm

/-- R215: the model's text rule is the spec's: nothing if the text is empty or starts with a zero byte. -/
theorem printCalls_eq (text : List Byte) : printCalls text = driverCalls (.framePrint text) := by
  unfold printCalls driverCalls
  cases text with
  | nil => simp
  | cons b t => by_cases h : b = 0x00#8 <;> simp [h]

/-! ### Link partner -/

/-- R243, R245: what a frame concludes does not depend on how far the host had read. -/
theorem Link.conclude_read (p : List Byte) (r : HostRead) (l : Link) :
    Link.conclude p { l with read := r } = l.conclude p := by
  unfold Link.conclude
  by_cases h : l.awaiting = true
  · simp [h]
  · rw [if_neg h]

/-- R248: the model's host sends exactly the frames the rule lists. -/
theorem clientPayload_iff (c : Config) (p : List Byte) : clientPayload c p = true ↔ ClientFrame c p := by
  unfold clientPayload ClientFrame
  rcases p with _ | ⟨op, rest⟩
  · simp [decodePayloadIn]
  by_cases hp : op = opPrint
  · subst hp
    simp [decodePayloadIn, clientSends, opPrint]
  rcases rest with _ | ⟨a, _ | ⟨b, _ | ⟨d, _ | ⟨e, rest⟩⟩⟩⟩ <;> simp only [decodePayloadIn, if_neg hp] <;>
    (try split_ifs) <;> simp_all [clientSends]

/-- R248, R89: a frame of a client command has a payload, and fits CAP where a full row of text and a goto do. -/
theorem clientFrame_length {c : Config} {p : List Byte} (h : ClientFrame c p) :
    1 ≤ p.length ∧ p.length ≤ max 3 (c.cols + 1) := by
  rcases h with rfl | rfl | ⟨v, rfl⟩ | ⟨x, y, rfl, -, -⟩ | ⟨text, rfl, h1, h2⟩ <;> simp; omega

/-- R240: the host takes at most the head of TXQ, and of the block nothing but TXQ changes. -/
theorem takeFromDevice_frame (s : State) (k : Byte → Link → Link) :
    ∃ q l, takeFromDevice s k = { s with tx := { s.tx with q := q }, link := l }
      ∧ (q = s.tx.q ∨ ∃ b, s.tx.q = b :: q) := by
  unfold takeFromDevice
  split
  · exact ⟨s.tx.q, s.link, rfl, .inl rfl⟩
  · rename_i b q h; exact ⟨q, _, rfl, .inr ⟨b, h⟩⟩

end Sys2Proof.Machine
end

