-- ==== Sys2Proof/Laws/PerInstr.lean ====
section
/-! SUPPORT. The family TableRow: the encoding of every instruction lies on its own row of spec/opcode_table.json, under the row's mask. -/

namespace Sys2Proof.Laws.TableRow

/-- A row's match and mask, by the row's width. -/
inductive Row where
  | word32 (value mask : BitVec 32)
  | word16 (value mask : BitVec 16)
  deriving DecidableEq, Repr

/-- The match and mask columns of spec/opcode_table.json. -/
def rowOf : Instr → Row
  | .edge _ _ => .word32 0x10000000#32 0xFE000000#32
  | .rxbyte _ => .word32 0x20000000#32 0xFFFFFF00#32
  | .tick => .word32 0x30000000#32 0xFFFFFFFF#32
  | .rd _ => .word16 0x0000#16 0x8000#16
  | .wrTxlen _ => .word16 0x8B00#16 0xFF00#16
  | .wrTxbuf _ _ => .word16 0xE000#16 0xE000#16
  | .cmdIrRearm => .word16 0x8001#16 0xFFFF#16
  | .cmdRxRearm => .word16 0x8002#16 0xFFFF#16
  | .cmdTxSend => .word16 0x8003#16 0xFFFF#16
  | .cmdMask => .word16 0x8004#16 0xFFFF#16
  | .cmdUnmask => .word16 0x8005#16 0xFFFF#16
  | .cmdWait => .word16 0x8006#16 0xFFFF#16
  | .cmdClrdiag => .word16 0x8007#16 0xFFFF#16
  | .frameClear => .word16 0x0163#16 0xFFFF#16
  | .frameDim _ => .word16 0x0264#16 0xFFFF#16
  | .frameHome => .word16 0x0168#16 0xFFFF#16
  | .frameGoto _ _ => .word16 0x0367#16 0xFFFF#16
  | .framePrint _ => .word16 0x0070#16 0x00FF#16
  | .frameRaw _ _ _ => .word16 0x0472#16 0xFFFF#16
  | .frameDecoderEvent _ _ => .word16 0x0369#16 0xFFFF#16
  | .frameDone => .word16 0x0164#16 0xFFFF#16

/-- A frame's header as the table numbers it: the length byte in bits 15 to 8, the opcode in bits 7 to 0. -/
def header : List Byte → Option (BitVec 16)
  | l :: op :: _ => some (l ++ op)
  | _ => none

/-- The encoded word, under the row's mask, is the row's match. -/
def OnRow : Encoded → Row → Prop
  | .event w, .word32 value mask => w &&& mask = value
  | .access w, .word16 value mask => w &&& mask = value
  | .frameIn bytes, .word16 value mask => ∃ h, header bytes = some h ∧ h &&& mask = value
  | .frameOut bytes, .word16 value mask => ∃ h, header bytes = some h ∧ h &&& mask = value
  | _, _ => False

def Statement (i : Instr) : Prop := OnRow (encode i) (rowOf i)

theorem edge (lvl : Bool) (ticks : Ticks) : Statement (.edge lvl ticks) := by
  apply BitVec.eq_of_getLsbD_eq
  intro k hk
  simp only [BitVec.getLsbD_and, encodeEdge, BitVec.getLsbD_append]
  interval_cases k <;> simp

theorem rxbyte (b : Byte) : Statement (.rxbyte b) := by
  apply BitVec.eq_of_getLsbD_eq
  intro k hk
  simp only [BitVec.getLsbD_and, encodeRxbyte, BitVec.getLsbD_append]
  interval_cases k <;> simp

theorem tick : Statement .tick :=
  show encodeTick &&& 0xFFFFFFFF#32 = 0x30000000#32 by decide

theorem rd (off : Offset) : Statement (.rd off) := by
  apply BitVec.eq_of_getLsbD_eq
  intro k hk
  simp only [BitVec.getLsbD_and, encodeRead, BitVec.getLsbD_append]
  interval_cases k <;> simp

theorem wrTxlen (v : Byte) : Statement (.wrTxlen v) := by
  apply BitVec.eq_of_getLsbD_eq
  intro k hk
  simp only [BitVec.getLsbD_and, encodeWrite, BitVec.getLsbD_append]
  interval_cases k <;> simp

theorem wrTxbuf (i : BitVec 5) (v : Byte) : Statement (.wrTxbuf i v) := by
  apply BitVec.eq_of_getLsbD_eq
  intro k hk
  simp only [BitVec.getLsbD_and, encodeWriteTxbuf, encodeWrite, BitVec.getLsbD_append]
  interval_cases k <;> simp

theorem cmdIrRearm : Statement .cmdIrRearm :=
  show encodeCommand 0x01#8 &&& 0xFFFF#16 = 0x8001#16 by decide
theorem cmdRxRearm : Statement .cmdRxRearm :=
  show encodeCommand 0x02#8 &&& 0xFFFF#16 = 0x8002#16 by decide
theorem cmdTxSend : Statement .cmdTxSend :=
  show encodeCommand 0x03#8 &&& 0xFFFF#16 = 0x8003#16 by decide
theorem cmdMask : Statement .cmdMask :=
  show encodeCommand 0x04#8 &&& 0xFFFF#16 = 0x8004#16 by decide
theorem cmdUnmask : Statement .cmdUnmask :=
  show encodeCommand 0x05#8 &&& 0xFFFF#16 = 0x8005#16 by decide
theorem cmdWait : Statement .cmdWait :=
  show encodeCommand 0x06#8 &&& 0xFFFF#16 = 0x8006#16 by decide
theorem cmdClrdiag : Statement .cmdClrdiag :=
  show encodeCommand 0x07#8 &&& 0xFFFF#16 = 0x8007#16 by decide
theorem frameClear : Statement .frameClear :=
  ⟨BitVec.ofNat 8 1 ++ opClear, rfl, by decide⟩
theorem frameDim (level : Byte) : Statement (.frameDim level) :=
  ⟨BitVec.ofNat 8 2 ++ opDim, rfl, by decide⟩
theorem frameHome : Statement .frameHome :=
  ⟨BitVec.ofNat 8 1 ++ opHome, rfl, by decide⟩
theorem frameGoto (x y : Byte) : Statement (.frameGoto x y) :=
  ⟨BitVec.ofNat 8 3 ++ opGoto, rfl, by decide⟩

theorem framePrint (text : List Byte) : Statement (.framePrint text) := by
  refine ⟨BitVec.ofNat 8 (text.length + 1) ++ opPrint, rfl, ?_⟩
  apply BitVec.eq_of_getLsbD_eq
  intro k hk
  simp only [BitVec.getLsbD_and, BitVec.getLsbD_append]
  interval_cases k <;> simp [opPrint]

theorem frameRaw (byte isChar wait : Byte) : Statement (.frameRaw byte isChar wait) :=
  ⟨BitVec.ofNat 8 4 ++ opRaw, rfl, by decide⟩
theorem frameDecoderEvent (address command : Byte) : Statement (.frameDecoderEvent address command) :=
  ⟨BitVec.ofNat 8 3 ++ opEvent, rfl, by decide⟩
theorem frameDone : Statement .frameDone :=
  ⟨BitVec.ofNat 8 1 ++ opDone, rfl, by decide⟩

end Sys2Proof.Laws.TableRow
end

