-- ==== Sys2Proof/Laws/Run.lean ====
section
/-! SUPPORT. The laws of a run: how it is taken apart turn by turn, and what the consumer's and the host's turns come to. -/

namespace Sys2Proof

open Sys2Proof.Machine

theorem RunsTo.nil {s u : State} (h : { s with turns := [] } = u) : RunsTo [] s u := by subst h; rfl

/-- A run goes on after its first turn from the state that turn leaves. -/
theorem RunsTo.cons {t : Turn} {ts : List Turn} {s m u : State} (h : step { s with turns := t :: ts } = .next m)
    (hm : m.turns = ts) (hr : RunsTo ts m u) : RunsTo (t :: ts) s u := by
  unfold RunsTo at *
  show Host.Core.run core (ts.length + 1) _ = _
  simp only [Host.Core.run]
  have e : core.step { s with turns := t :: ts } = .next m := h
  rw [e]
  subst hm
  exact hr

/-- R188: the turn of an awake consumer is the first action of its program. -/
theorem step_consumer {s : State} {ts : List Turn} {a : ConsumerAct} {rest : List ConsumerAct}
    (hc : s.cfg.wf = true) (ht : s.turns = .consumer :: ts) (hs : s.ids.sleep = false) (hp : s.con.prog = a :: rest) :
    step s = match consumerAct a { s with turns := ts, con := { s.con with prog := rest } } with
      | .done x => .next x
      | .stop r => .refused r
      | .run e x => issue e x := by
  unfold step fetch
  simp only [hc, if_true, ht, takeTurn, consumerTurn, hs, hp]
  rfl

/-- R249: the turn of the link partner is its move. -/
theorem step_host {s : State} {ts : List Turn} {m : HostMove} (hc : s.cfg.wf = true) (ht : s.turns = .host m :: ts) :
    step s = match hostTurn m { s with turns := ts } with
      | .done x => .next x
      | .stop r => .refused r
      | .run e x => issue e x := by
  unfold step fetch
  simp only [hc, if_true, ht, takeTurn]
  rfl

end Sys2Proof
end

