-- ==== Sys2Proof/Tests/Slice0.lean ====
section
/-! SUPPORT. Tests of one step each against spec/95_test_vectors.md, decoded words written out from 30_encoding.md, an ill-formed term for each check of WellFormed, and a witness for every statement that has hypotheses. -/

namespace Sys2Proof.Tests

open Sys2Proof.Machine

/-! ### Small states -/

/-- Reset, unmasked. -/
def unmasked : State := { State.reset with ids := { State.reset.ids with gie := true } }

/-- Unmasked, the decoder unit in this state. -/
def decoding (d : DState) (cnt : BitVec 4) (word : BitVec 14) : State :=
  { unmasked with edc := { unmasked.edc with dstate := d, cnt := cnt, word := word } }

/-- V-EDC-10: a decoded 0x3109. -/
def irFull : State := { unmasked with edc :=
  { dstate := .END, cnt := 0#4, word := 0x3109#14, edgeEn := false, irrdy := true, diag := .none } }

/-- V-PLF-01 after three bytes: the framer awaits the last byte of `g:5:1`. -/
def receiving : State := { unmasked with rx := { unmasked.rx with
  phase := .data, len := 0x03#8, cnt := 0x02#8, buf := [(0, 0x67#8), (1, 0x05#8)] } }

/-- V-PLF-01: `g:5:1` has been received. -/
def rxFull : State := { unmasked with rx := { unmasked.rx with
  phase := .data, len := 0x03#8, cnt := 0x03#8, buf := [(0, 0x67#8), (1, 0x05#8), (2, 0x01#8)], rdy := true
  en := false } }

/-- The state has this schedule. -/
def withTurns (ts : List Turn) (s : State) : State := { s with turns := ts }

/-- The consumer has this program. -/
def withProg (p : List ConsumerAct) (s : State) : State := { s with con := { s.con with prog := p } }

/-- The latches are as in V-IDS-08: an edge, a byte and a tick. -/
def latched : State := { State.reset with ids := { State.reset.ids with
  epend := true, ependT := 60000#24, ependL := false, rpend := true, rpendB := 0x01#8, tpend := true } }

/-- The outcome is a next state with this property. -/
def nextIs (o : Host.Outcome State Fault Refusal) (p : State → Bool) : Bool :=
  match o with
  | .next t => p t
  | .fault _ | .refused _ => false

/-- The outcome is this refusal. -/
def refusedAs (o : Host.Outcome State Fault Refusal) (r : Refusal) : Bool :=
  match o with
  | .refused r' => decide (r' = r)
  | .next _ | .fault _ => false

/-- The decoder gives this instruction. -/
def decodesTo (e : Encoded) (i : Instr) : Bool :=
  match decode e with
  | .ok j => decide (j = i)
  | .error _ => false

/-- The decoder refuses for this reason. -/
def decodeFails (e : Encoded) (err : DecodeError) : Bool :=
  match decode e with
  | .ok _ => false
  | .error err' => decide (err' = err)

/-! ### WellFormed: an ill-formed term for each check -/

theorem test_wf_edge : Instr.wf Config.tc1 (.edge true 65536#24) = false
    ∧ Instr.wf Config.tc1 (.edge true 65535#24) = true := by decide
theorem test_wf_rd : Instr.wf Config.tc1 (.rd 0x0C#7) = false ∧ Instr.wf Config.tc1 (.rd 0x3F#7) = false
    ∧ Instr.wf Config.tc1 (.rd 0x59#7) = false ∧ Instr.wf Config.tc1 (.rd 0x78#7) = false
    ∧ Instr.wf Config.tc1 (.rd 0x58#7) = true ∧ Instr.wf Config.tc1 (.rd 0x77#7) = true := by decide
theorem test_wf_wrTxbuf : Instr.wf Config.tc1 (.wrTxbuf 24#5 0x00#8) = false
    ∧ Instr.wf Config.tc1 (.wrTxbuf 23#5 0x00#8) = true := by decide
theorem test_wf_framePrint : Instr.wf Config.tc1 (.framePrint (List.replicate 24 0x41#8)) = false
    ∧ Instr.wf Config.tc1 (.framePrint (List.replicate 23 0x41#8)) = true := by decide
theorem test_wf_frameRaw : Instr.wf { Config.tc1 with cap := 3 } (.frameRaw 0x01#8 0x00#8 0x02#8) = false := by decide
theorem test_wf_frameGoto : Instr.wf { Config.tc1 with cap := 2 } (.frameGoto 0x05#8 0x01#8) = false := by decide
theorem test_wf_frameDecoderEvent :
    Instr.wf { Config.tc1 with cap := 2 } (.frameDecoderEvent 0x04#8 0x09#8) = false := by decide
theorem test_wf_frameDim : Instr.wf { Config.tc1 with cap := 1 } (.frameDim 0x80#8) = false := by decide
theorem test_wf_frames_of_one_byte : Instr.wf { Config.tc1 with cap := 0 } .frameClear = false
    ∧ Instr.wf { Config.tc1 with cap := 0 } .frameHome = false
    ∧ Instr.wf { Config.tc1 with cap := 0 } .frameDone = false := by decide
/-- R8: thresholds out of order, a band past W_TICK, CAP past 31. -/
theorem test_wf_config : Config.tc1.wf = true ∧ Config.wf { Config.tc1 with shortMax := 1334 } = false
    ∧ Config.wf { Config.tc1 with longMax := 65535 } = false ∧ Config.wf { Config.tc1 with cap := 32 } = false
    ∧ Config.wf { Config.tc1 with cap := 0 } = false ∧ Config.wf { Config.tc1 with shortMin := 0 } = false := by decide

/-! ### Decoding: each row's word, written out from 30_encoding.md -/

/-- kind 0001, zeros 000, level 1, ticks 889 = 0x379. -/
theorem test_decode_edge : decodesTo (.event 0b00010001000000000000001101111001#32) (.edge true 889#24) := by decide
/-- kind 0010, twenty zeros, the byte 0x67. -/
theorem test_decode_rxbyte : decodesTo (.event 0b00100000000000000000000001100111#32) (.rxbyte 0x67#8) := by decide
theorem test_decode_tick : decodesTo (.event 0b00110000000000000000000000000000#32) .tick := by decide
/-- direction 0, offset 1011000 (RXBUF[24]); the data byte is ignored. -/
theorem test_decode_rd : decodesTo (.access 0b0101100000000000#16) (.rd 0x58#7)
    ∧ decodesTo (.access 0b0101100011111111#16) (.rd 0x58#7) := by decide
/-- direction 1, offset 0001011, data 3. -/
theorem test_decode_wrTxlen : decodesTo (.access 0b1000101100000011#16) (.wrTxlen 0x03#8) := by decide
/-- direction 1, offset 11 then index 10111 = 23, data 0xAA. -/
theorem test_decode_wrTxbuf : decodesTo (.access 0b1111011110101010#16) (.wrTxbuf 23#5 0xAA#8) := by decide
/-- direction 1, offset 0, the seven codes of R87. -/
theorem test_decode_commands : decodesTo (.access 0b1000000000000001#16) .cmdIrRearm
    ∧ decodesTo (.access 0b1000000000000010#16) .cmdRxRearm ∧ decodesTo (.access 0b1000000000000011#16) .cmdTxSend
    ∧ decodesTo (.access 0b1000000000000100#16) .cmdMask ∧ decodesTo (.access 0b1000000000000101#16) .cmdUnmask
    ∧ decodesTo (.access 0b1000000000000110#16) .cmdWait
    ∧ decodesTo (.access 0b1000000000000111#16) .cmdClrdiag := by decide
/-- V-PAY-01. -/
theorem test_decode_frames_in : decodesTo (.frameIn [0x01#8, 0x63#8]) .frameClear
    ∧ decodesTo (.frameIn [0x02#8, 0x64#8, 0x80#8]) (.frameDim 0x80#8)
    ∧ decodesTo (.frameIn [0x01#8, 0x68#8]) .frameHome
    ∧ decodesTo (.frameIn [0x03#8, 0x67#8, 0x05#8, 0x01#8]) (.frameGoto 0x05#8 0x01#8)
    ∧ decodesTo (.frameIn [0x06#8, 0x70#8, 0x48#8, 0x65#8, 0x6C#8, 0x6C#8, 0x6F#8])
        (.framePrint [0x48#8, 0x65#8, 0x6C#8, 0x6C#8, 0x6F#8])
    ∧ decodesTo (.frameIn [0x04#8, 0x72#8, 0x01#8, 0x00#8, 0x02#8]) (.frameRaw 0x01#8 0x00#8 0x02#8) := by decide
/-- V-PAY-01. -/
theorem test_decode_frames_out : decodesTo (.frameOut [0x03#8, 0x69#8, 0x04#8, 0x09#8]) (.frameDecoderEvent 0x04#8 0x09#8)
    ∧ decodesTo (.frameOut [0x01#8, 0x64#8]) .frameDone := by decide
/-- V-IDS-12, R84: reserved words. -/
theorem test_decode_reserved : decodeFails (.access 0x8000#16) .reservedCommand
    ∧ decodeFails (.access 0x8008#16) .reservedCommand ∧ decodeFails (.access 0x80FF#16) .reservedCommand
    ∧ decodeFails (.access 0x8100#16) .reservedAccess ∧ decodeFails (.access 0x8200#16) .reservedAccess
    ∧ decodeFails (.event 0x00000000#32) .reservedEvent ∧ decodeFails (.event 0x40000000#32) .reservedEvent
    ∧ decodeFails (.event 0x12000000#32) .reservedEvent ∧ decodeFails (.event 0x20000100#32) .reservedEvent
    ∧ decodeFails (.event 0x30000001#32) .reservedEvent := by decide
/-- V-PAY-02, V-PAY-03: a received `01 64` is no dim, `01 7A` is no row; a length byte that is not the payload's is
none either. -/
theorem test_decode_unknown_frames : decodeFails (.frameIn [0x01#8, 0x64#8]) .unknownFrame
    ∧ decodeFails (.frameIn [0x01#8, 0x7A#8]) .unknownFrame ∧ decodeFails (.frameIn [0x02#8, 0x63#8]) .unknownFrame
    ∧ decodeFails (.frameIn []) .unknownFrame := by decide
/-- The opcode table's words, numbered as the table numbers them. -/
theorem test_decodeTableWord : decodeTableWord 32 0x11000379 = some (.edge true 889#24)
    ∧ decodeTableWord 16 0x8006 = some .cmdWait ∧ decodeTableWord 16 0x0100 = some (.rd 0x01#7)
    ∧ decodeTableWord 16 0x0163 = some .frameClear ∧ decodeTableWord 16 0x0164 = some .frameDone
    ∧ decodeTableWord 16 0x0367 = some (.frameGoto 0x00#8 0x00#8)
    ∧ decodeTableWord 16 0x0369 = some (.frameDecoderEvent 0x00#8 0x00#8)
    ∧ decodeTableWord 16 0x8000 = none := by decide
/-- A word placed in the reset state runs as the next step. -/
theorem test_withFetchWord : nextIs (step (State.reset.withFetchWord 16 0x8005)) (fun t => t.ids.gie)
    ∧ nextIs (step (State.reset.withFetchWord 32 0x30000000)) (fun t => t.ids.tpend)
    ∧ nextIs (step (State.reset.withFetchWord 16 0x0163)) (fun t => t.con.prog.length == 6) := by decide

/-! ### One step of each instruction, from 95_test_vectors.md -/

/-- V-EDC-02 p: a LONG low edge from MID0 takes bit 10 as 1. -/
theorem test_edge_takes_bit : nextIs (exec (.edge false 1778#24) (decoding .MID0 11#4 0x3000#14)) (fun t =>
    decide (t.edc = { dstate := .MID1, cnt := 10#4, word := 0x3400#14, edgeEn := true, irrdy := false, diag := .none })) := by
  decide
/-- V-EDC-02 a: one tick short of the SHORT band restarts with cause 1. -/
theorem test_edge_restarts : nextIs (exec (.edge false 443#24) (decoding .START1 13#4 0x2000#14)) (fun t =>
    decide (t.edc = { dstate := .MID1, cnt := 13#4, word := 0x2000#14, edgeEn := true, irrdy := false,
                      diag := .invalid })) := by decide
/-- V-PLF-01: the last byte of `g:5:1` completes the frame, with its terminator. -/
theorem test_rxbyte_completes : nextIs (exec (.rxbyte 0x01#8) receiving) (fun t =>
    decide (t.rx = rxFull.rx) && decide (Memory.read t.rx.buf 3 = 0x00#8)) := by decide
/-- P5: 25 is above CAP. -/
theorem test_rxbyte_illegal_length : nextIs (exec (.rxbyte 0x19#8) unmasked) (fun t =>
    t.rx.lenerr && decide (t.rx.phase = .len) && decide (t.rx.len = 0x00#8)) := by decide
/-- V-IDS-11. -/
theorem test_tick_wakes : nextIs (exec .tick { unmasked with ids := { unmasked.ids with sleep := true } }) (fun t =>
    decide (t = unmasked)) := by decide
/-- V-IDS-06: a second tick coalesces, with no overrun recorded. -/
theorem test_tick_coalesces : nextIs (exec .tick latched) (fun t => decide (t = latched)) := by decide
/-- V-IDS-06: STATUS is 0x98 with EVOVR set at reset's enables. -/
theorem test_rd_status : nextIs (exec (.rd 0x01#7) { State.reset with ids := { State.reset.ids with evovr := true } })
    (fun t => decide (t.con.rdData = 0x98#8)) := by decide
/-- V-EDC-10: IRFLD of 0x3109 is 6. -/
theorem test_rd_irfld : nextIs (exec (.rd 0x06#7) irFull) (fun t => decide (t.con.rdData = 0x06#8)) := by decide
/-- V-IDS-15. -/
theorem test_wrTxlen : nextIs (exec (.wrTxlen 0x03#8) State.reset) (fun t => decide (t.tx.len = 0x03#8)) := by decide
/-- V-IDS-15. -/
theorem test_wrTxbuf : nextIs (exec (.wrTxbuf 23#5 0xAA#8) State.reset) (fun t =>
    decide (Memory.read t.tx.buf 23 = 0xAA#8) && decide (Memory.read t.tx.buf 22 = 0x00#8)) := by decide
/-- V-IDS-12: TXBUF[24] does not exist. -/
theorem test_wrTxbuf_reserved : refusedAs (exec (.wrTxbuf 24#5 0x00#8) State.reset) .reservedAccess := by decide
/-- V-EDC-12. -/
theorem test_cmdIrRearm : nextIs (exec .cmdIrRearm irFull) (fun t => decide (t.edc = State.reset.edc)) := by decide
/-- V-PLF-08: the buffer is not cleared. -/
theorem test_cmdRxRearm : nextIs (exec .cmdRxRearm rxFull) (fun t =>
    decide (t.rx = { State.reset.rx with buf := rxFull.rx.buf })) := by decide
/-- V-PLF-10. -/
theorem test_cmdTxSend : nextIs (exec .cmdTxSend { State.reset with tx := { len := 0x01#8, buf := [(0, 0x64#8)], q := [] } })
    (fun t => decide (t.tx.q = [0x01#8, 0x64#8])) := by decide
/-- V-PLF-12. -/
theorem test_cmdTxSend_illegal : refusedAs (exec .cmdTxSend State.reset) .illegalTxLength := by decide
/-- V-IDS-14. -/
theorem test_cmdMask : nextIs (exec .cmdMask unmasked) (fun t => decide (t = State.reset)) := by decide
/-- V-IDS-03: the latched edge is handled, only its flag cleared. -/
theorem test_cmdUnmask_drains : nextIs (exec .cmdUnmask { decoding .MID1 13#4 0x2000#14 with ids :=
    { State.reset.ids with epend := true, ependT := 889#24, ependL := true } }) (fun t =>
    decide (t.edc.dstate = .START1) && t.ids.gie && !t.ids.epend && decide (t.ids.ependT = 889#24) && t.ids.ependL) := by
  decide
/-- V-IDS-04: a length byte does not wake. -/
theorem test_cmdWait_sleeps : nextIs (exec .cmdWait { State.reset with ids :=
    { State.reset.ids with rpend := true, rpendB := 0x03#8 } }) (fun t =>
    t.ids.sleep && t.ids.gie && decide (t.rx.len = 0x03#8) && decide (t.rx.phase = .data)) := by decide
/-- V-IDS-08: the edge and the tick wake. -/
theorem test_cmdWait_drains : nextIs (exec .cmdWait latched) (fun t =>
    !t.ids.sleep && decide (t.edc.dstate = .MID1) && decide (t.rx.len = 0x01#8)
      && decide (regValue t .status = 0x1C#8) && decide (regValue t .dstat = 0xDA#8)) := by decide
/-- V-IDS-13: LENERR stays. -/
theorem test_cmdClrdiag : nextIs (exec .cmdClrdiag { State.reset with
    edc := { State.reset.edc with diag := .invalid }, rx := { State.reset.rx with lenerr := true }
    ids := { State.reset.ids with evovr := true } }) (fun t =>
    decide (t.edc.diag = .none) && !t.ids.evovr && t.rx.lenerr) := by decide
/-- P4: re-arm, unmask, clear, ack. -/
theorem test_frameClear : nextIs (exec .frameClear unmasked) (fun t => decide (t.con.prog =
    [.access 0x8002#16, .access 0x8005#16, .driver .clear, .access 0xE064#16, .access 0x8B01#16, .access 0x8003#16])) := by
  decide
/-- R212. -/
theorem test_frameDim : nextIs (exec (.frameDim 0x80#8) unmasked) (fun t =>
    decide (t.con.prog[2]? = some (.driver (.dim 0x80#8)))) := by decide
/-- R213. -/
theorem test_frameHome : nextIs (exec .frameHome unmasked) (fun t =>
    decide (t.con.prog[2]? = some (.driver .home))) := by decide
/-- P2: goto(5, 1). -/
theorem test_frameGoto : nextIs (exec (.frameGoto 0x05#8 0x01#8) unmasked) (fun t =>
    decide (t.con.prog[2]? = some (.driver (.goto 0x05#8 0x01#8)))) := by decide
/-- V-PLF-06: the text ends at its first zero byte. -/
theorem test_framePrint_ends : nextIs (exec (.framePrint [0x41#8, 0x00#8, 0x42#8, 0x00#8]) unmasked) (fun t =>
    decide (t.con.prog[2]? = some (.driver (.print [0x41#8])))) := by decide
/-- R215: an empty text prints nothing and is acknowledged. -/
theorem test_framePrint_empty : nextIs (exec (.framePrint []) unmasked) (fun t => decide (t.con.prog =
    [.access 0x8002#16, .access 0x8005#16, .access 0xE064#16, .access 0x8B01#16, .access 0x8003#16])) := by decide
/-- V-PAY-01: `r:0x01:0:2`. -/
theorem test_frameRaw : nextIs (exec (.frameRaw 0x01#8 0x00#8 0x02#8) unmasked) (fun t =>
    decide (t.con.prog[2]? = some (.driver (.sendCommand 0x01#8 false 0x02#8)))) := by decide
/-- P1: `i:4:9`. -/
theorem test_frameDecoderEvent : nextIs (exec (.frameDecoderEvent 0x04#8 0x09#8) unmasked) (fun t => decide (t.con.prog =
    [.access 0xE069#16, .access 0xE104#16, .access 0xE209#16, .access 0x8B03#16, .access 0x8003#16])) := by decide
/-- P2: the done ack. -/
theorem test_frameDone : nextIs (exec .frameDone unmasked) (fun t => decide (t.con.prog =
    [.access 0xE064#16, .access 0x8B01#16, .access 0x8003#16])) := by decide

/-! ### The host's sends (44_link_partner.md R248, R249) -/

/-- R248: x < COLS and y < ROWS; 1 to COLS text bytes; no `r`. -/
theorem test_clientPayload : clientPayload Config.tc1 [0x67#8, 0x13#8, 0x03#8] = true
    ∧ clientPayload Config.tc1 [0x67#8, 0x14#8, 0x03#8] = false ∧ clientPayload Config.tc1 [0x67#8, 0x13#8, 0x04#8] = false
    ∧ clientPayload Config.tc1 (0x70#8 :: List.replicate 20 0x41#8) = true
    ∧ clientPayload Config.tc1 (0x70#8 :: List.replicate 21 0x41#8) = false ∧ clientPayload Config.tc1 [0x70#8] = false
    ∧ clientPayload Config.tc1 [0x72#8, 0x01#8, 0x00#8, 0x02#8] = false := by decide
/-- R249: after a prefix too, the next send waits for the reply. -/
theorem test_short_write_waits : nextIs (step (withTurns [.host (.send [0x64#8, 0x80#8] 2)] unmasked)) (fun t =>
    decide (t.link.wire = [0x02#8, 0x64#8]) && !hostMaySend t [0x63#8]) := by decide

/-! ### Witnesses: a concrete case for the hypotheses of each statement and of each of its clauses -/

/-- One witness for each of the five ways an operation reaches the block, and for words and frames that decode to
nothing. -/
theorem witness_StepRunsTheDecodedInstruction :
    State.reset.cfg.wf = true
    ∧ (withTurns [.event 0x30000000#32, .deliver] unmasked).turns = .event 0x30000000#32 :: [.deliver]
    ∧ decode (.event 0x30000000#32) = .ok .tick
    ∧ ({ withTurns [.deliver] unmasked with link := { unmasked.link with wire := [0x03#8, 0x67#8] } }).link.wire
        = 0x03#8 :: [0x67#8]
    ∧ (withProg [.access 0x0100#16, .loop] unmasked).con.prog = .access 0x0100#16 :: [.loop]
    ∧ unmasked.ids.sleep = false ∧ decode (.access 0x0100#16) = .ok (.rd 0x01#7)
    ∧ (withProg [.takeFrame [0x01#8, 0x63#8]] unmasked).con.prog = .takeFrame [0x01#8, 0x63#8] :: []
    ∧ decode (.frameIn [0x01#8, 0x63#8]) = .ok .frameClear
    ∧ (withProg [.sendFrame [0x01#8, 0x64#8]] unmasked).con.prog = .sendFrame [0x01#8, 0x64#8] :: []
    ∧ decode (.frameOut [0x01#8, 0x64#8]) = .ok .frameDone
    ∧ decode (.event 0x00000000#32) = .error .reservedEvent ∧ decode (.access 0x8008#16) = .error .reservedCommand
    ∧ decode (.frameIn [0x01#8, 0x7A#8]) = .error .unknownFrame
    ∧ decode (.frameOut [0x01#8, 0x7A#8]) = .error .unknownFrame := by
  refine ⟨rfl, rfl, rfl, rfl, rfl, rfl, rfl, rfl, rfl, rfl, rfl, ?_⟩
  exact ⟨rfl, rfl, rfl, rfl⟩

/-- Asleep, with a program and the turn. -/
def sleeping : State :=
  { withTurns [.consumer] (withProg [.loop] unmasked) with ids := { unmasked.ids with sleep := true } }

theorem witness_SleepingConsumerHasNoStep :
    sleeping.cfg.wf = true ∧ sleeping.ids.sleep = true ∧ sleeping.turns = .consumer :: [] := ⟨rfl, rfl, rfl⟩

/-- A step that changes the block: the last byte of `g:5:1` arrives. -/
theorem witness_StepKeepsConfiguration :
    step (withTurns [.event 0x20000001#32] receiving) = .next rxFull := rfl

/-- The invariants hold while a packet is being received, and the step before ends in the state whose mailbox is
full. -/
theorem inv_receiving : Inv (withTurns [.event 0x20000001#32] receiving) where
  cfg := by decide
  edc := ⟨rfl, by decide, by decide, by decide, by decide, by decide⟩
  rx := ⟨rfl, by decide, by decide, by decide, by decide, by decide, by decide, by decide, by decide⟩
  tx := ⟨rfl, rfl⟩
  ids := ⟨by decide, by decide, by decide, by decide⟩

theorem witness_EveryStepKeepsTheInvariants :
    Inv (withTurns [.event 0x20000001#32] receiving)
    ∧ step (withTurns [.event 0x20000001#32] receiving) = .next rxFull := ⟨inv_receiving, rfl⟩

/-- Well-formed configurations at the bounds of R8. -/
theorem witness_ResetMeetsTheInvariants : Config.tc1.wf = true
    ∧ Config.wf { Config.tc1 with cap := 1, wTick := 24, shortMin := 1, longMax := 16777214 } = true
    ∧ Config.wf { Config.tc1 with cap := 31, wTick := 8, shortMin := 1, shortMax := 1, longMin := 2, longMax := 254 }
        = true := by decide

/-- A sleeping consumer and a length byte, which does not wake it. -/
theorem witness_SleepOnlyUnmasked :
    SleepsUnmasked { sleeping with turns := [.event 0x20000003#32] }
    ∧ nextIs (step { sleeping with turns := [.event 0x20000003#32] }) (fun t => t.ids.sleep) = true :=
  ⟨fun _ => rfl, by decide⟩

/-- Operands at the ends of their ranges. -/
theorem witness_DecodeOfEncode : Config.tc1.wf = true
    ∧ Instr.wf Config.tc1 (.edge true 0#24) = true ∧ Instr.wf Config.tc1 (.edge false 65535#24) = true
    ∧ Instr.wf Config.tc1 (.rxbyte 0xFF#8) = true ∧ Instr.wf Config.tc1 (.rd 0x77#7) = true
    ∧ Instr.wf Config.tc1 (.wrTxlen 0xFF#8) = true ∧ Instr.wf Config.tc1 (.wrTxbuf 23#5 0xFF#8) = true
    ∧ Instr.wf Config.tc1 (.framePrint (List.replicate 23 0xFF#8)) = true
    ∧ Instr.wf Config.tc1 (.framePrint []) = true
    ∧ Instr.wf Config.tc1 (.frameRaw 0xFF#8 0xFF#8 0xFF#8) = true := by decide

/-- One word of each channel; the read has a data byte that is not 0. -/
theorem witness_EncodeOfDecode : decode (.event 0x1100FFFF#32) = .ok (.edge true 65535#24)
    ∧ decode (.access 0x01FF#16) = .ok (.rd 0x01#7) ∧ decode (.frameIn [0x01#8, 0x70#8]) = .ok (.framePrint [])
    ∧ decode (.frameOut [0x01#8, 0x64#8]) = .ok .frameDone := ⟨rfl, rfl, rfl, rfl⟩

/-- Every kind of reserved event word: kinds 0, 4 and 15, the bits 25 and 27 of EDGE, a count of 2^16, the bits 8
and 27 of RXBYTE, the bits 0 and 27 of TICK. -/
theorem witness_ReservedEventWordRefused :
    reservedEventWord Config.tc1 0x00000000#32 ∧ reservedEventWord Config.tc1 0x40000000#32
    ∧ reservedEventWord Config.tc1 0xF0000000#32 ∧ reservedEventWord Config.tc1 0x12000000#32
    ∧ reservedEventWord Config.tc1 0x18000000#32 ∧ reservedEventWord Config.tc1 0x10010000#32
    ∧ reservedEventWord Config.tc1 0x20000100#32 ∧ reservedEventWord Config.tc1 0x28000000#32
    ∧ reservedEventWord Config.tc1 0x30000001#32 ∧ reservedEventWord Config.tc1 0x38000000#32 := by
  refine ⟨?_, ?_, ?_, ?_, ?_, ?_, ?_, ?_, ?_, ?_⟩ <;> unfold reservedEventWord <;> decide

theorem witness_ReservedCommandRefused :
    (0x00#8).toNat = 0 ∧ 8 ≤ (0x08#8).toNat ∧ 8 ≤ (0xFF#8).toNat := by decide

/-- The ends of each reserved range under TC1. -/
theorem witness_ReservedAccessRefused : State.reset.cfg.wf = true ∧ State.reset.cfg.cap = 24
    ∧ 0x0C ≤ (0x0C#7).toNat ∧ (0x3F#7).toNat ≤ 0x3F ∧ 0x41 + 24 ≤ (0x59#7).toNat ∧ (0x5F#7).toNat ≤ 0x5F
    ∧ 0x60 + 24 ≤ (0x78#7).toNat ∧ 0x60 + 24 ≤ (0x7F#7).toNat ∧ 1 ≤ (0x01#7).toNat ∧ (0x0A#7).toNat ≤ 0x0A := by decide

/-- The ends of the bands of TC1 (V-EDC-02 a to k). -/
theorem witness_IntervalBands : Config.tc1.wf = true
    ∧ (Config.tc1.shortMin ≤ 444 ∧ 1333 ≤ Config.tc1.shortMax)
    ∧ (Config.tc1.longMin ≤ 1334 ∧ 2222 ≤ Config.tc1.longMax)
    ∧ InvalidInterval Config.tc1 443 ∧ InvalidInterval Config.tc1 2223 := by
  unfold InvalidInterval; decide

theorem witness_LeadingEdge : EdgeHandled unmasked 60000#24 ∧ EdgeHandled unmasked 65535#24
    ∧ unmasked.edc.dstate = .BEGIN ∧ unmasked.edc.cnt = 14#4 ∧ unmasked.edc.word = 0#14 := by
  unfold EdgeHandled; decide

/-- One witness for each cause: V-EDC-05, V-EDC-02 i and e, V-EDC-04. -/
theorem witness_RestartWithReplay :
    (EdgeHandled (decoding .END 0#4 0#14) 889#24 ∧ (decoding .END 0#4 0#14).edc.dstate = .END)
    ∧ (EdgeHandled (decoding .ERROR 0#4 0#14) 889#24 ∧ (decoding .ERROR 0#4 0#14).edc.dstate = .ERROR)
    ∧ (TableState (decoding .MID1 13#4 0x2000#14).edc.dstate ∧ InvalidInterval Config.tc1 (2223#24).toNat
        ∧ EdgeHandled (decoding .MID1 13#4 0x2000#14) 2223#24)
    ∧ (TableState (decoding .START1 13#4 0x2000#14).edc.dstate ∧ classify Config.tc1 (889#24).toNat = some .short
        ∧ nextState .START1 .short (Bool.xor true Config.tc1.invertLevel) = .START1)
    ∧ (EdgeHandled (decoding .MID1 0#4 0x3FFF#14) 1778#24 ∧ classify Config.tc1 (1778#24).toNat = some .long
        ∧ nextState .MID1 .long (Bool.xor true Config.tc1.invertLevel) = .MID0
        ∧ (decoding .MID1 0#4 0x3FFF#14).edc.cnt = 0#4)
    ∧ (nextState .START1 .short (Bool.xor false Config.tc1.invertLevel) = .MID1) := by
  unfold EdgeHandled TableState InvalidInterval; decide

/-- One witness for each transition of V-EDC-02 that is no glitch, and for the two completions of V-EDC-13. -/
theorem witness_BitTakenAndCompletion :
    (EdgeHandled (decoding .START1 13#4 0x2000#14) 444#24 ∧ TableState DState.START1
      ∧ classify Config.tc1 (444#24).toNat = some .short
      ∧ nextState .START1 .short (Bool.xor false Config.tc1.invertLevel) = .MID1 ∧ DState.MID1 ≠ .START1 ∧ 13#4 ≠ 0#4)
    ∧ (TableState DState.MID1 ∧ nextState .MID1 .long (Bool.xor true Config.tc1.invertLevel) = .MID0 ∧ 13#4 ≠ 1#4)
    ∧ (EdgeHandled (decoding .START0 1#4 0x3000#14) 889#24 ∧ TableState DState.START0
      ∧ nextState .START0 .short (Bool.xor true Config.tc1.invertLevel) = .MID0
      ∧ (decoding .START0 1#4 0x3000#14).edc.cnt = 1#4)
    ∧ (EdgeHandled (decoding .MID1 0#4 0x2FFF#14) 889#24
      ∧ nextState .MID1 .short (Bool.xor true Config.tc1.invertLevel) = .START1
      ∧ (decoding .MID1 0#4 0x2FFF#14).edc.cnt = 0#4)
    ∧ (TableState DState.MID0 ∧ nextState .MID0 .short (Bool.xor false Config.tc1.invertLevel) = .START0)
    ∧ (nextState .MID1 .long (Bool.xor true Config.tc1.invertLevel) = .MID0
      ∧ (decoding .MID1 0#4 0x3FFF#14).edc.cnt = 0#4) := by
  unfold EdgeHandled TableState; decide

/-- The edges of V-EDC-10 after the leading one: 21 edges that encode 0x3109. -/
def edges3109 : List (Bool × Ticks) :=
  [(true, 889#24), (false, 889#24), (true, 1778#24), (false, 889#24), (true, 889#24), (false, 889#24), (true, 889#24)]
  ++ [(false, 1778#24), (true, 1778#24), (false, 889#24), (true, 889#24), (false, 889#24), (true, 889#24), (false, 889#24)]
  ++ [(true, 889#24), (false, 1778#24), (true, 1778#24), (false, 889#24), (true, 889#24), (false, 1778#24), (true, 889#24)]

theorem frameEdges_3109 : FrameEdges Config.tc1 0x3109#14 edges3109 := by
  unfold FrameEdges edges3109
  repeat' first
    | exact List.Forall₂.nil
    | refine List.Forall₂.cons (by unfold EdgeIs; decide) ?_

theorem witness_DecodesEveryWord : unmasked.cfg.wf = true ∧ unmasked.ids.gie = true ∧ unmasked.edc.edgeEn = true
    ∧ unmasked.edc.dstate = .BEGIN ∧ unmasked.edc.cnt = 14#4 ∧ unmasked.edc.word = 0#14
    ∧ (0x3109#14).getLsbD 13 = true ∧ (60000#24).toNat < 2 ^ unmasked.cfg.wTick
    ∧ FrameEdges unmasked.cfg 0x3109#14 edges3109 :=
  ⟨rfl, rfl, rfl, rfl, rfl, rfl, rfl, by decide, frameEdges_3109⟩

/-- V-EDC-16 after edge 22; and, from reset, the frame of 0x3109 whose first interval after the leading edge is 200
ticks, and the one whose last is 3000 (V-EDC-20). -/
theorem witness_DecodesAfterAnyDamage :
    (decoding .START1 5#4 0x2120#14).cfg.wf = true ∧ (decoding .START1 5#4 0x2120#14).ids.gie = true
    ∧ (decoding .START1 5#4 0x2120#14).edc.edgeEn = true ∧ TableState (decoding .START1 5#4 0x2120#14).edc.dstate
    ∧ (0x3109#14).getLsbD 13 = true ∧ (60000#24).toNat < 2 ^ Config.tc1.wTick
    ∧ InvalidInterval Config.tc1 (60000#24).toNat ∧ FrameEdges Config.tc1 0x3109#14 edges3109
    ∧ (unmasked.edc.dstate = .BEGIN ∧ unmasked.edc.cnt = 14#4 ∧ unmasked.edc.word = 0#14 ∧ unmasked.edc.irrdy = false)
    ∧ FrameEdges Config.tc1 0x3109#14 ([] ++ (true, 889#24) :: edges3109.tail)
    ∧ FrameEdges Config.tc1 0x3109#14 (edges3109.dropLast ++ (true, 889#24) :: [])
    ∧ InvalidInterval Config.tc1 (200#24).toNat ∧ InvalidInterval Config.tc1 (3000#24).toNat :=
  ⟨rfl, rfl, rfl, .inl rfl, rfl, by decide, by unfold InvalidInterval; decide, frameEdges_3109, ⟨rfl, rfl, rfl, rfl⟩,
   frameEdges_3109, frameEdges_3109, by unfold InvalidInterval; decide, by unfold InvalidInterval; decide⟩

/-- Both ends of both ranges. -/
theorem witness_LengthByte : ByteHandled unmasked ∧ unmasked.rx.phase = .len
    ∧ (1 ≤ (0x01#8).toNat ∧ (0x18#8).toNat ≤ unmasked.cfg.cap)
    ∧ (0x00#8).toNat = 0 ∧ unmasked.cfg.cap < (0x19#8).toNat := by
  unfold ByteHandled; decide

/-- The next-to-last byte of `g:5:1` and its last byte. -/
theorem witness_PayloadByte : ByteHandled receiving ∧ receiving.rx.phase = .data ∧ Memory.wf receiving.rx.buf = true
    ∧ receiving.rx.cnt + 1#8 = receiving.rx.len
    ∧ ({ receiving.rx with cnt := 0x01#8 }).cnt + 1#8 ≠ receiving.rx.len := by
  unfold ByteHandled; decide

theorem witness_TxSend :
    (1 ≤ ({ State.reset.tx with len := 0x01#8 }).len.toNat
      ∧ ({ State.reset.tx with len := 0x18#8 }).len.toNat ≤ State.reset.cfg.cap)
    ∧ State.reset.tx.len.toNat = 0 ∧ State.reset.cfg.cap < ({ State.reset.tx with len := 0x19#8 }).len.toNat := by decide

/-- Payloads of one byte and of CAP bytes. -/
theorem witness_FramerReceivesEveryFrame : unmasked.cfg.wf = true ∧ ByteHandled unmasked ∧ unmasked.rx.phase = .len
    ∧ Memory.wf unmasked.rx.buf = true ∧ 1 ≤ [0x63#8].length
    ∧ (List.replicate 24 0x41#8).length ≤ unmasked.cfg.cap := by
  unfold ByteHandled; decide

/-- Each combination of enable, GIE and latch, for each source. -/
theorem witness_ArrivalAndLatching : (65535#24).toNat < 2 ^ Config.tc1.wTick
    ∧ irFull.edc.edgeEn = false
    ∧ (State.reset.edc.edgeEn = true ∧ State.reset.ids.gie = false ∧ State.reset.ids.epend = false)
    ∧ (latched.edc.edgeEn = true ∧ latched.ids.gie = false ∧ latched.ids.epend = true)
    ∧ (unmasked.edc.edgeEn = true ∧ unmasked.ids.gie = true)
    ∧ rxFull.rx.en = false
    ∧ (State.reset.rx.en = true ∧ State.reset.ids.rpend = false)
    ∧ (latched.rx.en = true ∧ latched.ids.rpend = true) ∧ unmasked.rx.en = true := by decide

theorem witness_TickOnlyWakes : ({ unmasked.ids with sleep := true }).gie = true ∧ sleeping.ids.gie = true := by decide

/-- An edge and a completing byte that wake, and a length byte that does not. -/
theorem witness_WakeSources : (receiving.rx.en = true → receiving.rx.rdy = false)
    ∧ nextIs (exec (.edge false 60000#24) sleeping) (fun t => !t.ids.sleep) = true
    ∧ nextIs (exec (.rxbyte 0x01#8) { receiving with ids := sleeping.ids }) (fun t => !t.ids.sleep) = true
    ∧ nextIs (exec (.rxbyte 0x03#8) sleeping) (fun t => t.ids.sleep) = true
    ∧ nextIs (exec .tick sleeping) (fun t => !t.ids.sleep) = true := ⟨by decide, by decide, by decide, by decide, by decide⟩

theorem witness_HandlersTouchTheirOwnUnit : unmasked.ids.gie = true
    ∧ nextIs (exec (.edge false 60000#24) unmasked) (fun t => decide (t.edc.dstate = .MID1)) = true
    ∧ nextIs (exec (.rxbyte 0x03#8) unmasked) (fun t => decide (t.rx.len = 0x03#8)) = true
    ∧ nextIs (exec .tick unmasked) (fun t => decide (t = unmasked)) = true := ⟨rfl, by decide, by decide, by decide⟩

theorem witness_DefinedReads : 0 < State.reset.cfg.cap ∧ 23 < State.reset.cfg.cap ∧ State.reset.cfg.cap ≤ 31 := by decide

/-- Both mailboxes full; RXBUF from 0 to the terminator. -/
theorem witness_MailboxReads : irFull.edc.irrdy = true ∧ rxFull.rx.rdy = true
    ∧ 0 ≤ rxFull.rx.len.toNat ∧ 3 ≤ rxFull.rx.len.toNat ∧ 3 ≤ rxFull.cfg.cap ∧ rxFull.cfg.cap ≤ 31 := by decide

/-- The ends of each range of offsets; RXBUF[4] is past the terminator of `g:5:1`. -/
theorem witness_AnyValueReads : State.reset.edc.irrdy = false ∧ 2 ≤ (0x02#7).toNat ∧ (0x06#7).toNat ≤ 6
    ∧ State.reset.rx.rdy = false ∧ (0x09#7).toNat = 9 ∧ (0x0A#7).toNat = 10 ∧ 0x40 ≤ (0x40#7).toNat
    ∧ (0x58#7).toNat ≤ 0x40 + State.reset.cfg.cap
    ∧ 0x40 + rxFull.rx.len.toNat < (0x44#7).toNat ∧ (0x58#7).toNat ≤ 0x40 + rxFull.cfg.cap := by decide

theorem witness_TransmitWrites : (0#5).toNat < State.reset.cfg.cap ∧ (23#5).toNat < State.reset.cfg.cap
    ∧ Memory.wf State.reset.tx.buf = true ∧ State.reset.cfg.cap ≤ (24#5).toNat := by decide

/-- Each host-to-device frame, and the longest print. -/
theorem witness_HostFrameDuty :
    (HostToDevice .frameClear ∧ HostToDevice (.frameDim 0x80#8) ∧ HostToDevice .frameHome
      ∧ HostToDevice (.frameGoto 0x05#8 0x01#8) ∧ HostToDevice (.framePrint (List.replicate 23 0x41#8))
      ∧ HostToDevice (.frameRaw 0x01#8 0x00#8 0x02#8))
    ∧ Instr.wf State.reset.cfg .frameClear = true ∧ Instr.wf State.reset.cfg (.frameDim 0x80#8) = true
    ∧ Instr.wf State.reset.cfg .frameHome = true ∧ Instr.wf State.reset.cfg (.frameGoto 0x05#8 0x01#8) = true
    ∧ Instr.wf State.reset.cfg (.framePrint (List.replicate 23 0x41#8)) = true
    ∧ Instr.wf State.reset.cfg (.frameRaw 0x01#8 0x00#8 0x02#8) = true :=
  ⟨⟨⟨_, rfl⟩, ⟨_, rfl⟩, ⟨_, rfl⟩, ⟨_, rfl⟩, ⟨_, rfl⟩, ⟨_, rfl⟩⟩, rfl, rfl, rfl, rfl, rfl, rfl⟩

theorem witness_DeviceFramesSent : 3 ≤ State.reset.cfg.cap ∧ 1 ≤ State.reset.cfg.cap
    ∧ 3 ≤ ({ Config.tc1 with cap := 3 }).cap ∧ 1 ≤ ({ Config.tc1 with cap := 1 }).cap := by decide

theorem witness_OverlongFrameRefused :
    HostToDevice (.framePrint (List.replicate 24 0x41#8))
    ∧ Instr.wf Config.tc1 (.framePrint (List.replicate 24 0x41#8)) = false
    ∧ Instr.wf { Config.tc1 with cap := 2 } (.frameDecoderEvent 0x04#8 0x09#8) = false
    ∧ Instr.wf { Config.tc1 with cap := 0 } .frameDone = false := ⟨⟨_, rfl⟩, rfl, rfl, rfl⟩

theorem witness_DutyActsAndAcknowledges :
    let s := withProg [.takeFrame [0x03#8, 0x67#8, 0x05#8, 0x01#8], .loop] rxFull
    s.cfg.wf = true ∧ HostToDevice (.frameGoto 0x05#8 0x01#8) ∧ Instr.wf s.cfg (.frameGoto 0x05#8 0x01#8) = true
    ∧ s.ids.sleep = false ∧ NoLatch s
    ∧ s.con.prog = .takeFrame (match encode (.frameGoto 0x05#8 0x01#8) with | .frameIn b => b | _ => []) :: [.loop] :=
  ⟨rfl, ⟨_, rfl⟩, rfl, rfl, ⟨rfl, rfl, rfl⟩, rfl⟩

theorem witness_DecoderEventReachesTheLink :
    let s := withProg [.sendFrame [0x03#8, 0x69#8, 0x04#8, 0x00#8]] irFull
    s.cfg.wf = true ∧ 3 ≤ s.cfg.cap ∧ Memory.wf s.tx.buf = true ∧ s.ids.sleep = false
    ∧ s.con.prog = .sendFrame [0x03#8, 0x69#8, 0x04#8, 0x00#8] :: [] := ⟨rfl, by decide, rfl, rfl, rfl⟩

/-- V-PAY-03: `01 7A`. -/
theorem witness_UnknownPayloadAcknowledged :
    let s := withTurns [.consumer] (withProg [.takeFrame [0x01#8, 0x7A#8], .loop] unmasked)
    s.cfg.wf = true ∧ s.cfg.ackUnknown = true ∧ s.ids.sleep = false ∧ s.turns = .consumer :: []
    ∧ s.con.prog = .takeFrame [0x01#8, 0x7A#8] :: [.loop] ∧ ∀ i, encode i ≠ .frameIn [0x01#8, 0x7A#8] := by
  refine ⟨rfl, rfl, rfl, rfl, rfl, fun i => ?_⟩
  cases i <;> simp [encode, frameBytes, opClear, opDim, opHome, opGoto, opPrint, opRaw]

theorem witness_ReferenceConsumerServesPacket :
    let s := withProg [.loop] rxFull
    s.cfg.wf = true ∧ Instr.wf s.cfg (.frameGoto 0x05#8 0x01#8) = true
    ∧ encode (.frameGoto 0x05#8 0x01#8) = .frameIn (0x03#8 :: [0x67#8, 0x05#8, 0x01#8])
    ∧ s.ids.sleep = false ∧ NoLatch s ∧ s.con.prog = [.loop] ∧ s.rx.rdy = true ∧ s.rx.len = 0x03#8
    ∧ ∀ j (h : j < [0x67#8, 0x05#8, 0x01#8].length), Memory.read s.rx.buf j = [0x67#8, 0x05#8, 0x01#8][j] :=
  ⟨rfl, rfl, rfl, rfl, ⟨rfl, rfl, rfl⟩, rfl, rfl, rfl, by decide⟩

theorem witness_ReferenceConsumerForwardsEvent :
    let s := withProg [.loop] irFull
    s.cfg.wf = true ∧ 3 ≤ s.cfg.cap ∧ Memory.wf s.tx.buf = true ∧ s.ids.sleep = false ∧ NoLatch s
    ∧ s.con.prog = [.loop] ∧ s.con.locals = [] ∧ s.rx.rdy = false ∧ s.edc.irrdy = true :=
  ⟨rfl, by decide, rfl, rfl, ⟨rfl, rfl, rfl⟩, rfl, rfl, rfl, rfl⟩

/-- V-IDS-05 at the top of the loop: the latched byte is the last of its frame. -/
def completing : State := { withProg [.loop] State.reset with
  rx := { State.reset.rx with phase := .data, len := 0x01#8 }
  ids := { State.reset.ids with rpend := true, rpendB := 0x63#8 } }

/-- With no latch, with the three of V-IDS-08, and with V-IDS-05's byte, which alone completes its frame. -/
theorem witness_ReferenceConsumerWaits :
    let s := withProg [.loop] unmasked
    let l := withProg [.loop] latched
    s.cfg.wf = true ∧ s.ids.sleep = false ∧ s.con.prog = [.loop] ∧ s.rx.rdy = false ∧ s.edc.irrdy = false ∧ NoLatch s
    ∧ l.ids.sleep = false ∧ l.con.prog = [.loop] ∧ l.rx.rdy = false ∧ l.edc.irrdy = false
    ∧ (l.ids.epend = true ∨ l.ids.tpend = true)
    ∧ completing.ids.sleep = false ∧ completing.con.prog = [.loop] ∧ completing.rx.rdy = false
    ∧ completing.edc.irrdy = false
    ∧ (completing.ids.rpend = true ∧ completing.rx.phase = .data ∧ completing.rx.cnt + 1#8 = completing.rx.len) :=
  ⟨rfl, rfl, rfl, rfl, rfl, ⟨rfl, rfl, rfl⟩, rfl, rfl, rfl, rfl, .inl rfl, rfl, rfl, rfl, rfl, rfl, rfl, rfl⟩

theorem inv_rxFull : Inv rxFull where
  cfg := by decide
  edc := ⟨rfl, by decide, by decide, by decide, by decide, by decide⟩
  rx := ⟨rfl, by decide, by decide, by decide, by decide, by decide, by decide, by decide, by decide⟩
  tx := ⟨rfl, rfl⟩
  ids := ⟨by decide, by decide, by decide, by decide⟩

theorem inv_irFull : Inv irFull where
  cfg := by decide
  edc := ⟨rfl, by decide, by decide, by decide, by decide, by decide⟩
  rx := ⟨rfl, by decide, by decide, by decide, by decide, by decide, by decide, by decide, by decide⟩
  tx := ⟨rfl, rfl⟩
  ids := ⟨by decide, by decide, by decide, by decide⟩

/-- V-PLF-09 and V-IDS-07: what arrives at a full mailbox. -/
theorem witness_FullMailboxIsStable :
    Inv irFull ∧ exec (.edge false 60000#24) irFull = .next irFull ∧ irFull.edc.irrdy = true
    ∧ Inv rxFull ∧ exec (.rxbyte 0x02#8) rxFull = .next { rxFull with rx := { rxFull.rx with ovr := true } }
    ∧ rxFull.rx.rdy = true := ⟨inv_irFull, rfl, rfl, inv_rxFull, rfl, rfl⟩

/-- An event and a write. -/
theorem witness_OnlyTheNamedWriters :
    exec .tick State.reset = .next { State.reset with ids := { State.reset.ids with tpend := true } }
    ∧ exec (.wrTxlen 0x03#8) State.reset = .next { State.reset with tx := { State.reset.tx with len := 0x03#8 } } :=
  ⟨rfl, rfl⟩

/-- A host that reads a length byte: the head of TXQ is taken. -/
def hostReading : State := { unmasked with
  tx := { unmasked.tx with q := [0x01#8, 0x64#8] }
  link := { wire := [], awaiting := true, read := .length 3, log := [] } }

theorem witness_TransmitQueueLosesNothing :
    nextIs (step (withTurns [.host (.attempt true)] hostReading)) (fun t => decide (t.tx.q = [0x64#8])) = true
    ∧ nextIs (step (withTurns [.consumer] (withProg [.access 0x8003#16] { unmasked with
        tx := { len := 0x01#8, buf := [(0, 0x64#8)], q := [] } }))) (fun t => decide (t.tx.q = [0x01#8, 0x64#8])) = true :=
  ⟨by decide, by decide⟩

/-- The whole of `g:5:1`, its first three bytes, and the shortest and the longest frame of a client command. -/
theorem witness_HostWritesFrame :
    unmasked.cfg.wf = true ∧ (withTurns [.host (.send [0x67#8, 0x05#8, 0x01#8] 4)] unmasked).turns
      = .host (.send [0x67#8, 0x05#8, 0x01#8] 4) :: []
    ∧ unmasked.link.awaiting = false ∧ unmasked.link.read = .idle
    ∧ ClientFrame unmasked.cfg [0x67#8, 0x05#8, 0x01#8] ∧ ClientFrame unmasked.cfg [0x63#8]
    ∧ ClientFrame unmasked.cfg (0x70#8 :: List.replicate 20 0x41#8)
    ∧ (0x70#8 :: List.replicate 20 0x41#8).length ≤ unmasked.cfg.cap
    ∧ [0x67#8, 0x05#8, 0x01#8].length + 1 ≤ 4 ∧ 3 ≤ [0x67#8, 0x05#8, 0x01#8].length :=
  ⟨rfl, rfl, rfl, rfl, .inr (.inr (.inr (.inl ⟨0x05#8, 0x01#8, rfl, by decide, by decide⟩))), .inl rfl,
   .inr (.inr (.inr (.inr ⟨_, rfl, by decide, by decide⟩))), by decide, by decide, by decide⟩

theorem witness_HostDutiesEnforced : State.reset.cfg.wf = true
    ∧ (withTurns [.host (.send [] 1)] unmasked).turns = .host (.send [] 1) :: []
    ∧ hostReading.link.awaiting = true ∧ hostReading.link.read ≠ .idle ∧ ([] : List Byte).length = 0
    ∧ State.reset.cfg.cap < (List.replicate 25 0x41#8).length
    ∧ ¬ ClientFrame State.reset.cfg [0x72#8, 0x01#8, 0x00#8, 0x02#8] := by
  refine ⟨rfl, rfl, rfl, by decide, rfl, by decide, ?_⟩
  simp [ClientFrame]

/-- The done ack, a frame with bytes behind it, and the empty frame. -/
theorem witness_HostReadTakesOneFrame :
    hostReading.cfg.wf = true ∧ hostReading.link.read = .length (2 + 1) ∧ [0x64#8].length ≤ 255
    ∧ hostReading.tx.q = BitVec.ofNat 8 [0x64#8].length :: [0x64#8] ++ []
    ∧ ({ hostReading.tx with q := [0x01#8, 0x64#8, 0x03#8] }).q
        = BitVec.ofNat 8 [0x64#8].length :: [0x64#8] ++ [0x03#8]
    ∧ ({ hostReading.tx with q := [0x00#8, 0x01#8] }).q = BitVec.ofNat 8 ([] : List Byte).length :: [] ++ [0x01#8] := by
  decide

theorem witness_HostConclusions : hostReading.link.awaiting = true ∧ [0x69#8, 0x04#8, 0x09#8] ≠ [0x64#8]
    ∧ unmasked.link.awaiting = false ∧ (∀ x y : Byte, [0x64#8] ≠ [0x69#8, x, y]) :=
  ⟨rfl, by decide, rfl, fun _ _ => by simp⟩

/-- V-LNK-02: three attempts in all; and the last of them. -/
theorem witness_HostAbandonsAfterAllAttempts : hostReading.cfg.wf = true ∧ hostReading.link.read = .length (2 + 1)
    ∧ ({ hostReading.link with read := .length 1 }).read = .length (0 + 1) := ⟨rfl, rfl, rfl⟩

/-- V-LNK-01. -/
theorem witness_EventBeforeAckFailsTheCommand :
    let s := { hostReading with tx := { hostReading.tx with q := [0x03#8, 0x69#8, 0x04#8, 0x09#8, 0x01#8, 0x64#8] } }
    s.cfg.wf = true ∧ s.link.read = .length (2 + 1) ∧ s.link.awaiting = true
    ∧ s.tx.q = [0x03#8, 0x69#8, 0x04#8, 0x09#8] ++ [0x01#8, 0x64#8] := ⟨rfl, rfl, rfl, rfl⟩

theorem witness_HostPollAndExit : unmasked.cfg.wf = true
    ∧ (withTurns [.host .poll] unmasked).turns = .host .poll :: [] ∧ unmasked.link.awaiting = false
    ∧ unmasked.link.read = .idle ∧ hostReading.tx.q ≠ [] ∧ hostReading.link.awaiting = true
    ∧ hostReading.link.read ≠ .idle ∧ unmasked.tx.q = []
    ∧ (withTurns [.host .exit] hostReading).turns = .host .exit :: [] := by decide

/-- An idle gap of a second, which saturates, and one half-bit of 889 us. -/
theorem witness_CaptureSaturates : unmasked.cfg.wf = true
    ∧ (withTurns [.pin 1000000000 false] unmasked).turns = .pin 1000000000 false :: []
    ∧ min (1000000000 / Config.tc1.tickNs) (2 ^ Config.tc1.wTick - 1) = 65535
    ∧ min (889000 / Config.tc1.tickNs) (2 ^ Config.tc1.wTick - 1) = 889 := by decide

end Sys2Proof.Tests
end

section
/-! The step taken apart: what the agent's turn hands to the block, what a step that answers must have done, and what
neither an agent nor `exec` writes. -/

namespace Sys2Proof.Machine

/-! ### From a turn to a step (R6) -/

/-- R5: under a well-formed configuration the agent at the head of the schedule takes its turn. -/
theorem fetch_turn {s : State} {t : Turn} {ts : List Turn} (hc : s.cfg.wf = true) (ht : s.turns = t :: ts) :
    fetch s = takeTurn t { s with turns := ts } := by
  simp [fetch, hc, ht]

/-- R188: an awake consumer's turn is the first action of its program. -/
theorem fetch_consumer {s : State} {ts : List Turn} {a : ConsumerAct} {rest : List ConsumerAct}
    (hc : s.cfg.wf = true) (ht : s.turns = .consumer :: ts) (hs : s.ids.sleep = false) (hp : s.con.prog = a :: rest) :
    fetch s = consumerAct a { s with turns := ts, con := { s.con with prog := rest } } := by
  simp [fetch_turn hc ht, takeTurn, consumerTurn, hs, hp]

/-- R241: a byte in flight is handed over as its RXBYTE event word. -/
theorem fetch_deliver {s : State} {ts : List Turn} {b : Byte} {rest : List Byte}
    (hc : s.cfg.wf = true) (ht : s.turns = .deliver :: ts) (hw : s.link.wire = b :: rest) :
    fetch s = .run (.event (encodeRxbyte b)) { s with turns := ts, link := { s.link with wire := rest } } := by
  simp [fetch_turn hc ht, takeTurn, deliverTurn, hw]

theorem step_of_done {s s' : State} (h : fetch s = .done s') : step s = .next s' := by
  simp only [step, h]

/-- R6, R95: what a turn hands to the block is issued in that same step. -/
theorem stepIssues_of_run {e : Encoded} {s s' : State} (h : fetch s = .run e s') : StepIssues e s s' := by
  have issued : step s = issue e s' := by
    cases hd : decode e <;> simp only [step, issue, h, hd]
  refine ⟨issued, fun i hd => ?_, fun err hd => ?_⟩ <;> rw [issued] <;> simp only [issue, hd]

/-- A step that answers a state either ended with the agent's turn or executed the instruction the turn handed over. -/
theorem step_next_cases {s t : State} (h : step s = .next t) :
    fetch s = .done t ∨ ∃ e i s', fetch s = .run e s' ∧ decode e = .ok i ∧ exec i s' = .next t := by
  cases hf : fetch s with
  | done s' => rw [step_of_done hf] at h; cases h; exact .inl rfl
  | stop r => simp [step, hf] at h
  | run e s' =>
    obtain ⟨-, executed, refused⟩ := stepIssues_of_run hf
    cases hd : decode e with
    | ok i => exact .inr ⟨e, i, s', rfl, hd, executed i hd ▸ h⟩
    | error err => rw [refused err hd] at h; cases h

/-! ### What an agent's turn leaves unchanged -/

/-- `P` holds of the state a turn leaves, be it the step's answer or the state the block's operation starts from. -/
def Fetched.Leaves (P : State → Prop) : Fetched → Prop
  | .done s => P s
  | .run _ s => P s
  | .stop _ => True

theorem Fetched.Leaves.mono {P Q : State → Prop} {f : Fetched} (hf : f.Leaves P) (h : ∀ s, P s → Q s) :
    f.Leaves Q := by
  cases f with
  | done s => exact h s hf
  | run e s => exact h s hf
  | stop r => trivial

/-- Of `s`, only the transmit queue, the consumer and the link partner may differ in `s'`. -/
def AgentsOnly (s s' : State) : Prop :=
  ∃ q con link, s' = { s with tx := { s.tx with q := q }, con := con, link := link }

theorem AgentsOnly.cfg_eq {s s' : State} (h : AgentsOnly s s') : s'.cfg = s.cfg := by
  obtain ⟨q, con, link, rfl⟩ := h; rfl

theorem consumerAct_leaves_agentsOnly (a : ConsumerAct) (s : State) :
    (consumerAct a s).Leaves (AgentsOnly s) := by
  cases a with
  | takeFrame bytes => simp only [consumerAct]; split <;> exact ⟨_, _, _, rfl⟩
  | _ => exact ⟨_, _, _, rfl⟩

theorem consumerTurn_leaves_agentsOnly (s : State) : (consumerTurn s).Leaves (AgentsOnly s) := by
  unfold consumerTurn
  split
  · exact ⟨_, _, _, rfl⟩
  · split
    · exact ⟨_, _, _, rfl⟩
    · exact consumerAct_leaves_agentsOnly _ _

theorem deliverTurn_leaves_agentsOnly (s : State) : (deliverTurn s).Leaves (AgentsOnly s) := by
  unfold deliverTurn
  split <;> exact ⟨_, _, _, rfl⟩

theorem takeFromDevice_agentsOnly (s : State) (k : Byte → Link → Link) : AgentsOnly s (takeFromDevice s k) := by
  obtain ⟨q, l, h, -⟩ := takeFromDevice_frame s k
  exact ⟨q, s.con, l, h⟩

theorem hostAttempt_agentsOnly (succeeds : Bool) (s : State) : AgentsOnly s (hostAttempt succeeds s) := by
  unfold hostAttempt
  split
  · exact ⟨_, _, _, rfl⟩
  · split_ifs
    · exact takeFromDevice_agentsOnly _ _
    · exact ⟨_, _, _, rfl⟩
    · exact ⟨_, _, _, rfl⟩
  · exact ⟨_, _, _, rfl⟩
  · exact ⟨_, _, _, rfl⟩

theorem hostReceive_agentsOnly (s : State) : AgentsOnly s (hostReceive s) := by
  unfold hostReceive
  split
  · exact takeFromDevice_agentsOnly _ _
  · exact ⟨_, _, _, rfl⟩
  · exact ⟨_, _, _, rfl⟩

theorem hostPoll_agentsOnly (s : State) : AgentsOnly s (hostPoll s) := by
  unfold hostPoll
  split <;> exact ⟨_, _, _, rfl⟩

theorem hostTurn_leaves_agentsOnly (m : HostMove) (s : State) : (hostTurn m s).Leaves (AgentsOnly s) := by
  cases m with
  | send p written =>
    simp only [hostTurn]
    split
    · exact ⟨_, _, _, rfl⟩
    · trivial
  | attempt succeeds => exact hostAttempt_agentsOnly succeeds s
  | receive => exact hostReceive_agentsOnly s
  | poll => exact hostPoll_agentsOnly s
  | exit => exact ⟨_, _, _, rfl⟩

/-- R240, R269: of the block, nothing but TXQ can change before the operation the turn hands over. -/
theorem takeTurn_leaves_agentsOnly (t : Turn) (s : State) : (takeTurn t s).Leaves (AgentsOnly s) := by
  cases t with
  | event w => exact ⟨_, _, _, rfl⟩
  | pin dtNs lvl => exact ⟨_, _, _, rfl⟩
  | deliver => exact deliverTurn_leaves_agentsOnly s
  | consumer => exact consumerTurn_leaves_agentsOnly s
  | host m => exact hostTurn_leaves_agentsOnly m s

/-- R6: before the block's operation only the schedule moves on, besides what the agent may write. -/
theorem fetch_leaves_agentsOnly (s : State) :
    (fetch s).Leaves (fun s' => ∃ ts, AgentsOnly { s with turns := ts } s') := by
  unfold fetch
  split
  · split
    · exact ⟨s.turns, _, _, _, rfl⟩
    · exact (takeTurn_leaves_agentsOnly _ _).mono fun _ h => ⟨_, h⟩
  · trivial

/-! ### The configuration (R8) -/

@[simp] theorem handle_cfg (ev : Event) (s : State) : (handle ev s).cfg = s.cfg := by
  cases ev with
  | edge lvl t => rfl
  | rxbyte b => simp only [handle]; split <;> rfl
  | tick => rfl

@[simp] theorem arrive_cfg (ev : Event) (s : State) : (arrive ev s).cfg = s.cfg := by
  obtain ⟨e, r, d, h, -⟩ := arrive_frame ev s
  rw [h]

@[simp] theorem drainEdge_cfg (s : State) : (drainEdge s).cfg = s.cfg := by
  unfold drainEdge; split <;> simp

@[simp] theorem drainByte_cfg (s : State) : (drainByte s).cfg = s.cfg := by
  unfold drainByte; split <;> simp

@[simp] theorem drainTick_cfg (s : State) : (drainTick s).cfg = s.cfg := by
  unfold drainTick; split <;> simp

@[simp] theorem drain_cfg (s : State) : (drain s).cfg = s.cfg := by simp [drain]

@[simp] theorem readRegister_cfg (r : Reg) (s : State) : (readRegister r s).cfg = s.cfg := by
  obtain ⟨v, n, h⟩ := readRegister_frame r s
  rw [h]

theorem takeFrame_cfg {n : Nat} {calls : List DriverCall} {s t : State} (h : takeFrame n calls s = .next t) :
    t.cfg = s.cfg := by
  rw [takeFrame_next h, State.schedule_cfg]

theorem sendFrame_cfg {p : List Byte} {s t : State} (h : sendFrame p s = .next t) : t.cfg = s.cfg := by
  rw [sendFrame_next h, State.schedule_cfg]

/-- R8: no instruction writes the configuration. -/
theorem exec_cfg {i : Instr} {s t : State} (h : exec i s = .next t) : t.cfg = s.cfg := by
  cases i with
  | edge lvl ticks => simp only [exec, execEdge] at h; split_ifs at h; cases h; exact arrive_cfg _ s
  | rxbyte b => cases h; exact arrive_cfg _ s
  | tick => cases h; exact arrive_cfg _ s
  | rd off => simp only [exec, execRd] at h; split at h <;> cases h; exact readRegister_cfg _ s
  | wrTxbuf idx v => simp only [exec, execWrTxbuf] at h; split_ifs at h; cases h; rfl
  | cmdTxSend => simp only [exec, execCmdTxSend] at h; split_ifs at h; cases h; rfl
  | wrTxlen | cmdIrRearm | cmdRxRearm | cmdMask | cmdClrdiag => cases h; rfl
  | cmdUnmask => cases h; exact drain_cfg _
  | cmdWait => cases h; exact drain_cfg _
  | frameClear | frameDim | frameHome | frameGoto | framePrint | frameRaw => exact takeFrame_cfg h
  | frameDecoderEvent | frameDone => exact sendFrame_cfg h

theorem fetch_leaves_cfg (s : State) : (fetch s).Leaves (fun s' => s'.cfg = s.cfg) :=
  (fetch_leaves_agentsOnly s).mono fun _ ⟨_, h⟩ => h.cfg_eq

/-- Settles O3: a step is an agent's turn, then perhaps one instruction, and neither writes the configuration. -/
theorem stepKeepsConfiguration : Obligations.StepKeepsConfiguration := by
  intro s t h
  have left := fetch_leaves_cfg s
  rcases step_next_cases h with hdone | ⟨e, i, s', hrun, -, hexec⟩
  · rwa [hdone] at left
  · rw [hrun] at left
    exact (exec_cfg hexec).trans left

/-! ### What reaches the block (R6, R80, R85, R241) -/

/-- Settles O1: each channel's turn hands over what it carries, and the step issues that. -/
theorem stepRunsTheDecodedInstruction : Obligations.StepRunsTheDecodedInstruction := by
  intro s ts hc
  refine ⟨fun w ht => stepIssues_of_run (fetch_turn hc ht), fun b rest ht hw => ?_, fun a rest ht hs hp => ?_⟩
  · obtain ⟨-, executed, -⟩ := stepIssues_of_run (fetch_deliver hc ht hw)
    exact executed _ (decode_rxbyte b)
  · have fetched := fetch_consumer hc ht hs hp
    refine ⟨?access, ?sendFrame, ?known, ?unknown⟩
    case access => rintro w rfl; exact stepIssues_of_run fetched
    case sendFrame => rintro bytes rfl; exact stepIssues_of_run fetched
    case known =>
      rintro bytes i rfl hd
      simp only [consumerAct, hd] at fetched
      obtain ⟨-, executed, -⟩ := stepIssues_of_run fetched
      exact executed i hd
    case unknown =>
      rintro bytes err rfl hd
      simp only [consumerAct, hd] at fetched
      exact step_of_done fetched

end Sys2Proof.Machine
end

section
/-! The invariants of R52: how each unit keeps its part, and that every step keeps them all. -/

namespace Sys2Proof

open Sys2Proof.Machine

/-! ### Configuration (R8) -/

/-- CAP fits the five bits of a buffer's index. -/
theorem Config.cap_le_of_wf {c : Config} (h : c.wf = true) : c.cap ≤ 31 := by
  simp only [Config.wf, decide_eq_true_eq] at h
  omega

/-- A tick count fits the tick field of the event word. -/
theorem Config.wTick_le_of_wf {c : Config} (h : c.wf = true) : c.wTick ≤ 24 := by
  simp only [Config.wf, decide_eq_true_eq] at h
  omega

/-! ### Decoder unit (R52 (a), (c) to (f), R24) -/

/-- What the EDGE handler meets and keeps while a frame comes in: the decoder listens, its mailbox is empty and the
bits not yet taken are 0. DSTATE is left out, since the handler sets it last. -/
structure Listening (e : Edc) : Prop where
  enabled : e.edgeEn = true
  notReady : e.irrdy = false
  cntLe : e.cnt.toNat ≤ 14
  lowBitsClear : ∀ j, j < e.cnt.toNat → e.word.getLsbD j = false

theorem EdcInv.listening {e : Edc} (h : EdcInv e) (enabled : e.edgeEn = true) : Listening e where
  enabled := enabled
  notReady := by simpa [enabled] using h.enableIsNotReady
  cntLe := h.cntLe
  lowBitsClear := h.lowBitsClear

/-- R116: what a restart clears before it handles the edge again. -/
theorem Listening.cleared {e : Edc} (h : Listening e) (cause : Cause) :
    Listening { e with diag := cause, dstate := .BEGIN, cnt := 14#4, word := 0#14 } where
  enabled := h.enabled
  notReady := h.notReady
  cntLe := Nat.le_refl 14
  lowBitsClear := by simp

/-- R115: the bit that is taken lies just above those left to take. -/
theorem Listening.takeBit {e : Edc} (h : Listening e) (n : DState) (more : e.cnt ≠ 0#4) :
    Listening (e.takeBit n) where
  enabled := h.enabled
  notReady := h.notReady
  cntLe := by rw [Edc.takeBit_cnt, cnt_pred more]; exact (Nat.sub_le _ _).trans h.cntLe
  lowBitsClear j hj := by
    rw [Edc.takeBit_cnt] at hj
    have kept : e.word.getLsbD j = false := h.lowBitsClear j (by rw [cnt_pred more] at hj; omega)
    rw [Edc.takeBit_word]
    split
    · rw [BitVec.getLsbD_or, kept, one_shift_below hj, Bool.or_false]
    · exact kept

/-- A listening decoder may hold any state of the transition table. -/
theorem Listening.inv_of_tableState {e : Edc} (h : Listening e) {n : DState} (hn : TableState n) :
    EdcInv { e with dstate := n } where
  enableIsNotReady := by simp [h.enabled, h.notReady]
  readyIffEnd := by rcases hn with rfl | rfl | rfl | rfl <;> simp [h.notReady]
  notError := by rcases hn with rfl | rfl | rfl | rfl <;> simp
  cntLe := h.cntLe
  beginFresh := fun begin => absurd begin (TableState_guard hn).1
  lowBitsClear := h.lowBitsClear

/-- R113, R114: past BEGIN, what the guard lets through is a state the table has a row for. -/
theorem tableState_of_guard {d : DState} (notBegin : d ≠ .BEGIN)
    (guard : ¬ DState.START0.code.toNat < d.code.toNat) : TableState d := by
  revert notBegin guard; unfold TableState; cases d <;> decide

/-- R112: the leading edge is a bit taken into MID1. -/
theorem Listening.leading {e : Edc} (h : Listening e) (more : e.cnt ≠ 0#4) : EdcInv e.leading :=
  (h.takeBit .MID1 more).inv_of_tableState (n := .MID1) (.inr (.inl rfl))

theorem Listening.restart {e : Edc} (h : Listening e) (cause : Cause) : EdcInv (e.restart cause) :=
  (h.cleared cause).leading (show 14#4 ≠ 0#4 by decide)

/-- R117: a frame is complete only with no bit left to take. -/
theorem Listening.settle {e : Edc} (h : Listening e) {n : DState} (hn : TableState n) : EdcInv (e.settle n) := by
  unfold Edc.settle
  split
  case isTrue =>
    exact ⟨rfl, by simp, by simp, h.cntLe, by simp, h.lowBitsClear⟩
  case isFalse => exact h.inv_of_tableState hn

/-- R119: the EDGE handler keeps the decoder's invariants, in the state in which it runs. -/
theorem EdcInv.edge {e : Edc} (h : EdcInv e) (enabled : e.edgeEn = true) (c : Config) (lvl : Bool) (t : Nat) :
    EdcInv (e.edge c lvl t) := by
  have listening := h.listening enabled
  have notReady := listening.notReady
  unfold Edc.edge
  split
  case isTrue begin =>
    refine listening.leading ?_
    rw [(h.beginFresh begin).1]; decide
  case isFalse notBegin =>
    split
    case isTrue => exact listening.restart .state
    case isFalse guard =>
      have table := tableState_of_guard notBegin guard
      split
      case h_1 => exact listening.restart .invalid
      case h_2 k _ =>
        have next := nextState_table k (effectiveLevel c lvl) table
        dsimp only
        split_ifs with same bit zero
        · exact listening.restart .selfmap
        · exact listening.restart .underflow
        · exact (listening.takeBit _ zero).settle next
        · exact listening.settle next

/-- R120. -/
theorem edcInv_rearm (e : Edc) : EdcInv e.rearm where
  enableIsNotReady := rfl
  readyIffEnd := by simp
  notError := by simp
  cntLe := by simp
  beginFresh := fun _ => ⟨rfl, rfl⟩
  lowBitsClear := by simp

/-! ### Framer unit (R52 (b), (g), (h), R30, R35, R47, R49) -/

/-- R142, R143: a payload byte of a frame that is still short of it. -/
theorem RxInv.store {cap : Nat} {r : Rx} (h : RxInv cap r) (hcap : cap ≤ 31) (data : r.phase = .data)
    (empty : r.rdy = false) (b : Byte) : RxInv cap (r.store b) := by
  have short := h.assembling data empty
  have len := h.lenLe
  have next : (r.cnt + 1#8).toNat = r.cnt.toNat + 1 := by
    rw [BitVec.toNat_add]; simp; omega
  have bufWf := Memory.write_wf r.cnt.toNat b h.bufWf
  have bufSize := cellsBelow_write b h.bufSize (show r.cnt.toNat < cap + 1 by omega)
  unfold Rx.store
  dsimp only
  split
  case isTrue last =>
    exact {
      enableIsNotReady := rfl
      lenPhase := by simp [data]
      lenLe := len
      cntLe := by rw [last]
      dataPhase := h.dataPhase
      assembling := by simp
      whole := fun _ => ⟨data, last, by simp [Memory.read_write _ _ _ bufWf]⟩
      bufWf := Memory.write_wf _ _ bufWf
      bufSize := cellsBelow_write _ bufSize (by omega) }
  case isFalse more =>
    have below : (r.cnt + 1#8).toNat < r.len.toNat := by
      have : (r.cnt + 1#8).toNat ≠ r.len.toNat := fun e => more (BitVec.eq_of_toNat_eq e)
      omega
    exact {
      enableIsNotReady := h.enableIsNotReady
      lenPhase := by simp [data]
      lenLe := len
      cntLe := below.le
      dataPhase := h.dataPhase
      assembling := fun _ _ => below
      whole := by simp [empty]
      bufWf := bufWf
      bufSize := bufSize }

/-- R145: the RXBYTE handler keeps the receive side's invariants, in the state in which it runs. -/
theorem RxInv.byte {c : Config} {r : Rx} (h : RxInv c.cap r) (hcap : c.cap ≤ 31) (enabled : r.en = true) (b : Byte) :
    RxInv c.cap (r.byte c b) := by
  have empty : r.rdy = false := by simpa [enabled] using h.enableIsNotReady
  unfold Rx.byte
  split
  case h_1 =>
    split
    case isTrue legal =>
      exact {
        enableIsNotReady := h.enableIsNotReady
        lenPhase := by simp
        lenLe := legal.2
        cntLe := by simp
        dataPhase := fun _ => legal.1
        assembling := fun _ _ => legal.1
        whole := by simp [empty]
        bufWf := h.bufWf
        bufSize := h.bufSize }
    case isFalse => exact { h with }
  case h_2 data => exact h.store hcap data empty b

/-- R146: the buffer is kept, and with it its form and size. -/
theorem RxInv.rearm {cap : Nat} {r : Rx} (h : RxInv cap r) : RxInv cap r.rearm where
  enableIsNotReady := rfl
  lenPhase := fun _ => ⟨rfl, rfl⟩
  lenLe := by simp
  cntLe := by simp
  dataPhase := by simp
  assembling := by simp
  whole := by simp
  bufWf := h.bufWf
  bufSize := h.bufSize

/-- R181: a staged byte lies within the buffer. -/
theorem TxInv.write {cap : Nat} {t : Tx} (h : TxInv cap t) {i : Nat} (hi : i < cap) (v : Byte) :
    TxInv cap { t with buf := Memory.write t.buf i v } where
  bufWf := Memory.write_wf i v h.bufWf
  bufSize := cellsBelow_write v h.bufSize hi

/-! ### Dispatcher (R52 (i), R38, R173) -/

/-- With every latch empty only the width of EPEND_T is left to ask. -/
theorem NoLatch.idsInv {s : State} (h : NoLatch s) (fit : s.ids.ependT.toNat < 2 ^ s.cfg.wTick) : IdsInv s := by
  obtain ⟨noEdge, noByte, noTick⟩ := h
  exact ⟨by simp [noEdge], by simp [noByte], fun _ => ⟨noEdge, noByte, noTick⟩, fit⟩

/-- R175: a latched edge goes to the decoder and wakes the consumer. -/
theorem drainEdge_eq (s : State) : drainEdge s = { s with
    edc := if s.ids.epend then s.edc.edge s.cfg s.ids.ependL s.ids.ependT.toNat else s.edc
    ids := { s.ids with epend := false, sleep := s.ids.sleep && !s.ids.epend } } := by
  obtain ⟨cfg, edc, rx, tx, ⟨gie, epend, ependT, ependL, rpend, rpendB, tpend, evovr, sleep⟩, con, link, turns⟩ := s
  cases epend <;> simp [drainEdge, handle, State.wake]

/-- R175: a latched byte goes to the framer and wakes the consumer if it completes a frame. -/
theorem drainByte_eq (s : State) : drainByte s =
    let rx' := if s.ids.rpend then s.rx.byte s.cfg s.ids.rpendB else s.rx
    { s with rx := rx', ids := { s.ids with rpend := false, sleep := s.ids.sleep && !(s.ids.rpend && rx'.rdy) } } := by
  obtain ⟨cfg, edc, rx, tx, ⟨gie, epend, ependT, ependL, rpend, rpendB, tpend, evovr, sleep⟩, con, link, turns⟩ := s
  cases rpend
  · simp [drainByte]
  · cases completed : (rx.byte cfg rpendB).rdy <;> simp [drainByte, handle, State.wake, completed]

/-- R175: a latched tick only wakes the consumer. -/
theorem drainTick_eq (s : State) : drainTick s =
    { s with ids := { s.ids with tpend := false, sleep := s.ids.sleep && !s.ids.tpend } } := by
  obtain ⟨cfg, edc, rx, tx, ⟨gie, epend, ependT, ependL, rpend, rpendB, tpend, evovr, sleep⟩, con, link, turns⟩ := s
  cases tpend <;> simp [drainTick, handle, State.wake]

/-- R184, R185: unmasking, asleep or not, and draining, unit by unit. -/
theorem drain_unmasked (asleep : Bool) (s : State) :
    drain { s with ids := { s.ids with gie := true, sleep := asleep } } = drained asleep s := by
  simp only [drain, drainEdge_eq, drainByte_eq, drainTick_eq, drained, Bool.not_or, Bool.and_assoc,
    Bool.and_comm (!s.ids.tpend)]

/-- R52, R175: draining hands a latched event to a unit whose source is still enabled, and leaves no latch. -/
theorem Inv.drained {s : State} (h : Inv s) (asleep : Bool) : Inv (drained asleep s) where
  cfg := h.cfg
  edc := by
    show EdcInv (if s.ids.epend then _ else _)
    split
    case isTrue latched => exact h.edc.edge (h.ids.edgeLatched latched) _ _ _
    case isFalse => exact h.edc
  rx := by
    show RxInv s.cfg.cap (if s.ids.rpend then _ else _)
    split
    case isTrue latched => exact h.rx.byte (Config.cap_le_of_wf h.cfg) (h.ids.byteLatched latched) _
    case isFalse => exact h.rx
  tx := h.tx
  ids := NoLatch.idsInv ⟨rfl, rfl, rfl⟩ h.ids.ticksFit

theorem Inv.wake {s : State} (h : Inv s) : Inv s.wake where
  cfg := h.cfg
  edc := h.edc
  rx := h.rx
  tx := h.tx
  ids := { h.ids with }

/-- R171, R173: an event is handled with its source enabled and every latch empty. -/
theorem Inv.handle {s : State} {ev : Event} (h : Inv s) (enabled : sourceEnabled ev s = true)
    (unmasked : s.ids.gie = true) : Inv (handle ev s) := by
  have empty : NoLatch s := h.ids.unmaskedEmpty unmasked
  cases ev with
  | edge lvl t =>
    have edc := h.edc.edge enabled s.cfg lvl t.toNat
    exact Inv.wake ⟨h.cfg, edc, h.rx, h.tx, NoLatch.idsInv empty h.ids.ticksFit⟩
  | rxbyte b =>
    have rx := h.rx.byte (Config.cap_le_of_wf h.cfg) enabled b
    have received : Inv { s with rx := s.rx.byte s.cfg b } :=
      ⟨h.cfg, h.edc, rx, h.tx, NoLatch.idsInv empty h.ids.ticksFit⟩
    simp only [Machine.handle]
    split
    · exact received.wake
    · exact received
  | tick => exact h.wake

/-- R81: the count of an edge fits W_TICK. -/
def EventFits (c : Config) : Event → Prop
  | .edge _ t => t.toNat < 2 ^ c.wTick
  | .rxbyte _ | .tick => True

/-- R172, R52 (i): only an event of an enabled source is latched, and only with GIE = 0. -/
theorem Inv.latch {s : State} {ev : Event} (h : Inv s) (enabled : sourceEnabled ev s = true)
    (masked : s.ids.gie = false) (fits : EventFits s.cfg ev) : Inv { s with ids := s.ids.latch ev } := by
  refine ⟨h.cfg, h.edc, h.rx, h.tx, ?_⟩
  obtain ⟨edgeLatched, byteLatched, -, ticksFit⟩ := h.ids
  cases ev with
  | edge lvl t =>
    simp only [Ids.latch]
    split
    · exact ⟨edgeLatched, byteLatched, by simp [masked], ticksFit⟩
    · exact ⟨fun _ => enabled, byteLatched, by simp [masked], fits⟩
  | rxbyte b =>
    simp only [Ids.latch]
    split
    · exact ⟨edgeLatched, byteLatched, by simp [masked], ticksFit⟩
    · exact ⟨edgeLatched, fun _ => enabled, by simp [masked], ticksFit⟩
  | tick => exact ⟨edgeLatched, byteLatched, by simp [Ids.latch, masked], ticksFit⟩

/-- R171: a discarded event leaves at most RXOVR. -/
theorem Inv.discardEvent {s : State} (h : Inv s) (ev : Event) : Inv (discardEvent ev s) := by
  cases ev with
  | edge | tick => exact h
  | rxbyte b =>
    exact ⟨h.cfg, h.edc, { h.rx with }, h.tx, { h.ids with }⟩

theorem Inv.arrive {s : State} {ev : Event} (h : Inv s) (fits : EventFits s.cfg ev) : Inv (arrive ev s) := by
  unfold Machine.arrive
  split
  case isTrue enabled =>
    split
    case isTrue unmasked => exact h.handle enabled unmasked
    case isFalse masked => exact h.latch enabled (Bool.not_eq_true _ ▸ masked) fits
  case isFalse => exact h.discardEvent ev

/-! ### The step -/

/-- The invariants speak of nothing an agent may write before the block's operation. -/
theorem Inv.of_agentsOnly {s s' : State} (h : Inv s) (written : AgentsOnly s s') : Inv s' := by
  obtain ⟨q, con, link, rfl⟩ := written
  exact ⟨h.cfg, h.edc, h.rx, { h.tx with }, { h.ids with }⟩

theorem readRegister_agentsOnly (r : Reg) (s : State) : AgentsOnly s (readRegister r s) := by
  obtain ⟨v, n, read⟩ := readRegister_frame r s
  exact ⟨_, _, _, read⟩

theorem schedule_agentsOnly (acts : List ConsumerAct) (s : State) : AgentsOnly s (s.schedule acts) := ⟨_, _, _, rfl⟩

theorem Inv.execCmdIrRearm {s : State} (h : Inv s) :
    Inv { s with edc := s.edc.rearm, ids := { s.ids with epend := false } } := by
  obtain ⟨-, byteLatched, unmaskedEmpty, ticksFit⟩ := h.ids
  exact ⟨h.cfg, edcInv_rearm _, h.rx, h.tx, by simp, byteLatched, fun g => ⟨rfl, (unmaskedEmpty g).2⟩, ticksFit⟩

theorem Inv.execCmdRxRearm {s : State} (h : Inv s) :
    Inv { s with rx := s.rx.rearm, ids := { s.ids with rpend := false } } := by
  obtain ⟨edgeLatched, -, unmaskedEmpty, ticksFit⟩ := h.ids
  have empty (g : s.ids.gie = true) : s.ids.epend = false ∧ false = false ∧ s.ids.tpend = false := by
    obtain ⟨noEdge, -, noTick⟩ := unmaskedEmpty g
    exact ⟨noEdge, rfl, noTick⟩
  exact ⟨h.cfg, h.edc, h.rx.rearm, h.tx, edgeLatched, by simp, empty, ticksFit⟩

theorem Inv.execCmdMask {s : State} (h : Inv s) : Inv { s with ids := { s.ids with gie := false } } :=
  ⟨h.cfg, h.edc, h.rx, h.tx, h.ids.edgeLatched, h.ids.byteLatched, by simp, h.ids.ticksFit⟩

theorem Inv.execCmdClrdiag {s : State} (h : Inv s) :
    Inv { s with edc := { s.edc with diag := .none }, ids := { s.ids with evovr := false } } :=
  ⟨h.cfg, { h.edc with }, h.rx, h.tx, { h.ids with }⟩

/-- R52: every instruction keeps the invariants. -/
theorem Inv.exec {i : Instr} {s t : State} (h : Inv s) (ran : exec i s = .next t) : Inv t := by
  cases i with
  | edge lvl ticks =>
    simp only [Machine.exec, execEdge] at ran
    split_ifs at ran with fits
    cases ran; exact h.arrive fits
  | rxbyte b => cases ran; exact h.arrive trivial
  | tick => cases ran; exact h.arrive trivial
  | rd off =>
    simp only [Machine.exec, execRd] at ran
    split at ran <;> cases ran
    exact h.of_agentsOnly (readRegister_agentsOnly _ s)
  | wrTxlen v => cases ran; exact ⟨h.cfg, h.edc, h.rx, { h.tx with }, { h.ids with }⟩
  | wrTxbuf idx v =>
    simp only [Machine.exec, execWrTxbuf] at ran
    split_ifs at ran with inside
    cases ran; exact ⟨h.cfg, h.edc, h.rx, h.tx.write inside v, { h.ids with }⟩
  | cmdIrRearm => cases ran; exact h.execCmdIrRearm
  | cmdRxRearm => cases ran; exact h.execCmdRxRearm
  | cmdTxSend =>
    simp only [Machine.exec, execCmdTxSend] at ran
    split_ifs at ran
    cases ran; exact h.of_agentsOnly ⟨_, _, _, rfl⟩
  | cmdMask => cases ran; exact h.execCmdMask
  | cmdUnmask => cases ran; exact drain_unmasked s.ids.sleep s ▸ h.drained _
  | cmdWait => cases ran; exact drain_unmasked true s ▸ h.drained _
  | cmdClrdiag => cases ran; exact h.execCmdClrdiag
  | frameClear | frameDim | frameHome | frameGoto | framePrint | frameRaw =>
    rw [takeFrame_next ran]; exact h.of_agentsOnly (schedule_agentsOnly _ s)
  | frameDecoderEvent | frameDone => rw [sendFrame_next ran]; exact h.of_agentsOnly (schedule_agentsOnly _ s)

/-- R52: so does what an agent does before the block's operation. -/
theorem Inv.fetch_leaves {s : State} (h : Inv s) : (fetch s).Leaves Inv := by
  have moved (ts : List Turn) : Inv { s with turns := ts } := ⟨h.cfg, h.edc, h.rx, h.tx, { h.ids with }⟩
  exact (fetch_leaves_agentsOnly s).mono fun _ ⟨ts, written⟩ => (moved ts).of_agentsOnly written

/-- Settles O4: a step is an agent's turn, then perhaps one instruction, and both keep the invariants. -/
theorem everyStepKeepsTheInvariants : Obligations.EveryStepKeepsTheInvariants := by
  intro s t h stepped
  have left := h.fetch_leaves
  rcases step_next_cases stepped with hdone | ⟨e, i, s', hrun, -, hexec⟩
  · rwa [hdone] at left
  · rw [hrun] at left
    exact left.exec hexec

/-- Settles O5: at reset the decoder is freshly re-armed, the mailboxes are empty and nothing is latched. -/
theorem resetMeetsTheInvariants : Obligations.ResetMeetsTheInvariants := by
  intro c hc
  refine ⟨hc, edcInv_rearm (State.resetWith c).edc, ?rx, ⟨rfl, rfl⟩, NoLatch.idsInv ⟨rfl, rfl, rfl⟩ ?fit⟩
  case rx =>
    exact { enableIsNotReady := rfl, lenPhase := fun _ => ⟨rfl, rfl⟩, lenLe := Nat.zero_le _, cntLe := le_rfl,
            dataPhase := nofun, assembling := nofun, whole := nofun, bufWf := rfl, bufSize := rfl }
  case fit => exact Nat.two_pow_pos _

end Sys2Proof
end

section
/-! The register window: what a read returns, what a write stores, which accesses are refused, and the count a pin
transition carries (10_state.md R40 to R51, R53). -/

namespace Sys2Proof

open Sys2Proof.Machine

/-! ### Fields side by side -/

/-- The value of two fields side by side. -/
theorem toNat_append_eq_add {n m : Nat} (x : BitVec n) (y : BitVec m) :
    (x ++ y).toNat = x.toNat * 2 ^ m + y.toNat := by
  rw [BitVec.toNat_append, ← Nat.shiftLeft_add_eq_or_of_lt y.isLt, Nat.shiftLeft_eq]

/-- The value of a field: what is left of the word after the bits below it and above it are gone. -/
theorem toNat_extractLsb'_eq {n : Nat} (start len : Nat) (x : BitVec n) :
    (x.extractLsb' start len).toNat = x.toNat / 2 ^ start % 2 ^ len := by
  rw [BitVec.extractLsb'_toNat, Nat.shiftRight_eq_div_pow]

/-! ### Reads (R41 to R50, R180) -/

/-- R180: a read of a register whose value is defined returns it and changes nothing else. -/
theorem exec_rd_defined {s : State} {off : Offset} (r : Reg) (named : regAt s.cfg off = some r)
    (fixed : readsAnyValue s r = false) : exec (.rd off) s = .next (returned (regValue s r) s) := by
  simp [exec, execRd, named, readRegister, fixed, returned]

/-- R42. -/
theorem statusByte_bits (s : State) :
    (statusByte s).getLsbD 0 = s.edc.irrdy ∧ (statusByte s).getLsbD 1 = s.rx.rdy
    ∧ (statusByte s).getLsbD 2 = s.ids.gie ∧ (statusByte s).getLsbD 3 = s.edc.edgeEn
    ∧ (statusByte s).getLsbD 4 = s.rx.en ∧ (statusByte s).getLsbD 5 = s.rx.lenerr
    ∧ (statusByte s).getLsbD 6 = s.rx.ovr ∧ (statusByte s).getLsbD 7 = s.ids.evovr := by
  simp only [statusByte, BitVec.getLsbD_append, BitVec.getLsbD_ofBool]
  simp

/-- R45. -/
theorem dstatByte_toNat (s : State) : (dstatByte s).toNat =
    16 * s.edc.cnt.toNat + 8 * s.rx.phase.code.toNat + s.edc.dstate.code.toNat := by
  simp only [dstatByte, toNat_append_eq_add]
  omega

/-- R46. -/
theorem diagByte_toNat (s : State) : (diagByte s).toNat = s.edc.diag.code.toNat := by
  simp only [diagByte, toNat_append_eq_add]
  simp

/-- R43. -/
theorem irloByte_toNat (w : BitVec 14) : (irloByte w).toNat = w.toNat % 2 ^ 8 := by
  simp [irloByte]

/-- R43. -/
theorem irhiByte_toNat (w : BitVec 14) : (irhiByte w).toNat = w.toNat / 2 ^ 8 := by
  simp only [irhiByte, toNat_append_eq_add, toNat_extractLsb'_eq, BitVec.toNat_ofNat]
  omega

/-- R44. -/
theorem iraddrByte_toNat (w : BitVec 14) : (iraddrByte w).toNat = w.toNat / 2 ^ 6 % 2 ^ 5 := by
  simp only [iraddrByte, toNat_append_eq_add, toNat_extractLsb'_eq, BitVec.toNat_ofNat]
  omega

/-- R44. -/
theorem ircmdByte_toNat (w : BitVec 14) : (ircmdByte w).toNat = w.toNat % 2 ^ 6 := by
  simp only [ircmdByte, toNat_append_eq_add, toNat_extractLsb'_eq, BitVec.toNat_ofNat]
  omega

/-- R44. -/
theorem irfldByte_toNat (w : BitVec 14) :
    (irfldByte w).toNat = 2 * (w.toNat / 2 ^ 12) + w.toNat / 2 ^ 11 % 2 := by
  simp only [irfldByte, toNat_append_eq_add, toNat_extractLsb'_eq, BitVec.toNat_ofNat]
  omega

/-- Settles O37: each of these registers has a defined value in every state; STATUS, DSTAT and DIAG by their fields. -/
theorem definedReads : Obligations.DefinedReads := by
  intro s
  refine ⟨exec_rd_defined .cmd rfl rfl, ?status, ?dstat, ?diag, exec_rd_defined .txlen rfl rfl, ?txbuf⟩
  case status => exact ⟨statusByte s, exec_rd_defined .status rfl rfl, statusByte_bits s⟩
  case dstat =>
    refine ⟨dstatByte s, exec_rd_defined .dstat rfl rfl, ?_⟩
    rw [dstatByte_toNat]
    cases s.rx.phase <;> cases s.edc.dstate <;> rfl
  case diag =>
    refine ⟨diagByte s, exec_rd_defined .diag rfl rfl, ?_⟩
    rw [diagByte_toNat]
    cases s.edc.diag <;> rfl
  case txbuf => exact fun i hi hc => exec_rd_defined _ (regAt_txbuf hi hc) rfl

/-- Settles O38: a ready flag makes its mailbox's registers defined, and the views of WORD are its fields. -/
theorem mailboxReads : Obligations.MailboxReads := by
  intro s
  refine ⟨fun ready => ?word, fun ready => ?packet⟩
  case word =>
    have fixed : (!s.edc.irrdy) = false := by simp [ready]
    refine ⟨⟨_, _, exec_rd_defined .irlo rfl fixed, exec_rd_defined .irhi rfl fixed, ?_⟩,
      ⟨_, exec_rd_defined .iraddr rfl fixed, iraddrByte_toNat _⟩,
      ⟨_, exec_rd_defined .ircmd rfl fixed, ircmdByte_toNat _⟩,
      ⟨_, exec_rd_defined .irfld rfl fixed, irfldByte_toNat _⟩⟩
    simp only [regValue, irloByte_toNat, irhiByte_toNat]
    omega
  case packet =>
    have fixed : (!s.rx.rdy) = false := by simp [ready]
    refine ⟨exec_rd_defined .rxlen rfl fixed, exec_rd_defined .rxcnt rfl fixed, fun i hi hcap hc => ?_⟩
    exact exec_rd_defined _ (regAt_rxbuf hcap hc) (by simp [readsAnyValue, ready, hi])

/-! ### Reserved accesses (R51) -/

theorem issue_read (off : Offset) (s : State) : issue (.access (encodeRead off)) s = execRd off s := by
  simp [issue, decode_read, exec]

/-- R40: the gaps of the map. -/
theorem regAt_reserved {c : Config} {off : Offset}
    (gap : 0x0C ≤ off.toNat ∧ off.toNat ≤ 0x3F ∨ 0x41 + c.cap ≤ off.toNat ∧ off.toNat ≤ 0x5F
      ∨ 0x60 + c.cap ≤ off.toNat) : regAt c off = none := by
  rw [regAt_high (by omega), if_neg (by omega), if_neg (by omega)]

/-- R40: the offsets of TXBUF's rows are those from 0x60 on. -/
theorem txbufRow_iff (off : Offset) : off.extractLsb' 5 2 = 0b11#2 ↔ 0x60 ≤ off.toNat := by
  rw [← BitVec.toNat_inj, toNat_extractLsb'_eq, BitVec.toNat_ofNat]
  omega

/-- R86: a write past CMD, other than to TXLEN, decodes to a write of TXBUF from 0x60 on and to nothing below. -/
theorem issue_write {off : Offset} (notCmd : off.toNat ≠ 0x00) (notTxlen : off.toNat ≠ 0x0B) (v : Byte) (s : State) :
    issue (.access (encodeWrite off v)) s =
      if 0x60 ≤ off.toNat then execWrTxbuf (off.extractLsb' 0 5) v s else .refused .reservedAccess := by
  have h1 : off ≠ 0x00#7 := fun e => notCmd (by rw [e]; rfl)
  have h2 : off ≠ 0x0B#7 := fun e => notTxlen (by rw [e]; rfl)
  by_cases row : 0x60 ≤ off.toNat
  · simp [issue, decode_write, h1, h2, txbufRow_iff, row, exec]
  · simp [issue, decode_write, h1, h2, txbufRow_iff, row, refusalOf]

theorem execWrTxbuf_past {i : BitVec 5} {s : State} (past : s.cfg.cap ≤ i.toNat) (v : Byte) :
    execWrTxbuf i v s = .refused .reservedAccess := by
  rw [execWrTxbuf, if_neg (by omega)]

/-- Settles O13: a reserved offset names no register, and a write decodes to nothing or lies past TXBUF. -/
theorem reservedAccessRefused : Obligations.ReservedAccessRefused := by
  intro s off v hc
  have hcap := Config.cap_le_of_wf hc
  have hoff := off.isLt
  refine ⟨fun gap => ?read, fun gap => ?write, ?cmd⟩
  case read => rw [issue_read, execRd, regAt_reserved gap]
  case write =>
    rw [issue_write (by omega) (by omega)]
    split
    case isTrue row =>
      have index : (off.extractLsb' 0 5).toNat = off.toNat % 2 ^ 5 := by rw [toNat_extractLsb'_eq]; simp
      exact execWrTxbuf_past (by omega) v
    case isFalse => rfl
  case cmd => rw [issue_read]; exact exec_rd_defined (s := s) (off := 0x00#7) .cmd rfl rfl

/-! ### Writes (R48, R50, R181) -/

/-- Settles O40: the staging buffer takes the byte at its index, and an index past it is refused. -/
theorem transmitWrites : Obligations.TransmitWrites := by
  intro s v
  refine ⟨rfl, fun i inside hwf => ?_, fun i past => execWrTxbuf_past past v⟩
  refine ⟨Memory.write s.tx.buf i.toNat v, ?_, fun j => Memory.read_write _ j v hwf⟩
  rw [exec, execWrTxbuf, if_pos inside]

/-! ### The capture timer (R53, R81) -/

/-- R53, R8: the saturated count fits the tick field of the event word. -/
theorem captureCount_lt {c : Config} (hc : c.wf = true) (dtNs : Nat) : captureCount c dtNs < 2 ^ 24 := by
  have width : 2 ^ c.wTick ≤ 2 ^ 24 := Nat.pow_le_pow_right (by decide) (Config.wTick_le_of_wf hc)
  have := Nat.two_pow_pos c.wTick
  unfold captureCount
  omega

/-- Settles O60: the pin's turn hands over the EDGE word with the capture count, which its tick field holds. -/
theorem captureSaturates : Obligations.CaptureSaturates := by
  intro s ts dt lvl hc ht
  obtain ⟨-, executed, -⟩ := stepIssues_of_run (fetch_turn hc ht)
  refine ⟨_, executed _ (decode_edge lvl _), ?_⟩
  rw [BitVec.toNat_ofNat, Nat.mod_eq_of_lt (captureCount_lt hc dt)]
  rfl

end Sys2Proof
end

section
/-! The mailboxes and the transmit queue as shared memory: a register with no defined value, what one instruction can
write, the stability of a full mailbox, and TXQ as a queue (20_memory.md R65, R67, R70, R71). -/

namespace Sys2Proof

open Sys2Proof.Machine

/-! ### Any-value reads (R65) -/

/-- R65, R180: a read of a register without a defined value returns some byte and counts one free value. -/
theorem exec_rd_free {s : State} {off : Offset} {r : Reg} (named : regAt s.cfg off = some r)
    (free : readsAnyValue s r = true) : ∃ v, exec (.rd off) s = .next (returnedFree v s) :=
  ⟨Config.freeByte s.con.freeCount, by simp [exec, execRd, named, readRegister, free, returnedFree]⟩

/-- R40, R65: the views of WORD have a defined value exactly while IRRDY = 1. -/
theorem regAt_wordView {off : Offset} (lo : 2 ≤ off.toNat) (hi : off.toNat ≤ 6) (c : Config) :
    ∃ r, regAt c off = some r ∧ ∀ s, readsAnyValue s r = !s.edc.irrdy := by
  have views : off = 2#7 ∨ off = 3#7 ∨ off = 4#7 ∨ off = 5#7 ∨ off = 6#7 := by bv_omega
  rcases views with rfl | rfl | rfl | rfl | rfl <;> exact ⟨_, rfl, fun _ => rfl⟩

/-- R40: RXBUF[i] is at offset 0x40 + i, under any configuration. -/
theorem regAt_rxbuf_of_offset {c : Config} {off : Offset} (lo : 0x40 ≤ off.toNat) (hi : off.toNat ≤ 0x40 + c.cap) :
    regAt c off = some (.rxbuf (off.toNat - 0x40)) := by
  rw [regAt_high (by omega), if_pos ⟨lo, hi⟩]

/-- R40, R65: the packet mailbox's registers have no defined value while RXRDY = 0. -/
theorem regAt_packet {c : Config} {off : Offset}
    (inside : off.toNat = 9 ∨ off.toNat = 10 ∨ (0x40 ≤ off.toNat ∧ off.toNat ≤ 0x40 + c.cap)) :
    ∃ r, regAt c off = some r ∧ ∀ s : State, s.rx.rdy = false → readsAnyValue s r = true := by
  rcases inside with isLen | isCnt | ⟨lo, hi⟩
  · obtain rfl : off = 9#7 := BitVec.eq_of_toNat_eq isLen
    exact ⟨.rxlen, rfl, fun s empty => by simp [readsAnyValue, empty]⟩
  · obtain rfl : off = 10#7 := BitVec.eq_of_toNat_eq isCnt
    exact ⟨.rxcnt, rfl, fun s empty => by simp [readsAnyValue, empty]⟩
  · exact ⟨_, regAt_rxbuf_of_offset lo hi, fun s empty => by simp [readsAnyValue, empty]⟩

/-- Settles O39: each of these offsets names a register whose value is free in that state. -/
theorem anyValueReads : Obligations.AnyValueReads := by
  intro s
  refine ⟨fun empty off lo hi => ?word, fun empty off inside => ?packet, fun off past hi => ?pastPacket⟩
  case word =>
    obtain ⟨r, named, free⟩ := regAt_wordView lo hi s.cfg
    exact exec_rd_free named (by simp [free, empty])
  case packet =>
    obtain ⟨r, named, free⟩ := regAt_packet inside
    exact exec_rd_free named (free s empty)
  case pastPacket =>
    have beyond : s.rx.len.toNat < off.toNat - 0x40 := by omega
    exact exec_rd_free (regAt_rxbuf_of_offset (by omega) hi) (by simp [readsAnyValue, beyond])

/-! ### What one instruction can write (R269) -/

/-- The answers of an instruction, by what it can write: an event arrives, the latches are drained, a unit is re-armed,
or neither mailbox changes and TXQ at most grows at its end. -/
inductive Effect (s : State) : Instr → State → Prop where
  | event (i : Instr) (ev : Event) : Effect s i (arrive ev s)
  | drain (i : Instr) (asleep : Bool) : Effect s i (drained asleep s)
  | irRearm (ids : Ids) : Effect s .cmdIrRearm { s with edc := s.edc.rearm, ids := ids }
  | rxRearm (ids : Ids) : Effect s .cmdRxRearm { s with rx := s.rx.rearm, ids := ids }
  | other (i : Instr) (diag : Cause) (tx : Tx) (ids : Ids) (con : Consumer) (sent : List Byte)
      (appended : tx.q = s.tx.q ++ sent) :
      Effect s i { s with edc := { s.edc with diag := diag }, tx := tx, ids := ids, con := con }

/-- TXQ left as it is has had no byte appended. -/
theorem Effect.of_same_q (s : State) (i : Instr) (diag : Cause) (len : Byte) (buf : Memory) (ids : Ids)
    (con : Consumer) : Effect s i { s with
      edc := { s.edc with diag := diag }, tx := { s.tx with len := len, buf := buf }, ids := ids, con := con } :=
  .other i diag _ ids con [] (List.append_nil _).symm

/-- R269: every answer of an instruction is one of these. -/
theorem exec_effect {i : Instr} {s t : State} (ran : exec i s = .next t) : Effect s i t := by
  cases i with
  | edge lvl ticks =>
    simp only [exec, execEdge] at ran
    split_ifs at ran
    cases ran; exact .event _ _
  | rxbyte b => cases ran; exact .event _ _
  | tick => cases ran; exact .event _ _
  | rd off =>
    simp only [exec, execRd] at ran
    split at ran <;> cases ran
    obtain ⟨v, n, read⟩ := readRegister_frame _ s
    rw [read]; exact .of_same_q ..
  | wrTxbuf idx v =>
    simp only [exec, execWrTxbuf] at ran
    split_ifs at ran
    cases ran; exact .of_same_q ..
  | cmdIrRearm => cases ran; exact .irRearm _
  | cmdRxRearm => cases ran; exact .rxRearm _
  | cmdTxSend =>
    simp only [exec, execCmdTxSend] at ran
    split_ifs at ran
    cases ran; exact .other _ s.edc.diag _ s.ids s.con _ (Tx.send_q _)
  | wrTxlen | cmdMask | cmdClrdiag => cases ran; exact .of_same_q ..
  | cmdUnmask => cases ran; exact drain_unmasked s.ids.sleep s ▸ .drain _ _
  | cmdWait => cases ran; exact drain_unmasked true s ▸ .drain _ _
  | frameClear | frameDim | frameHome | frameGoto | framePrint | frameRaw =>
    rw [takeFrame_next ran]; exact .of_same_q ..
  | frameDecoderEvent | frameDone => rw [sendFrame_next ran]; exact .of_same_q ..

/-! ### A full mailbox (R70, R71) -/

/-- R171: an event at a disabled source does not reach its unit. -/
theorem arrive_of_disabled {ev : Event} {s : State} (disabled : sourceEnabled ev s = false) :
    arrive ev s = discardEvent ev s := by
  simp [arrive, disabled]

/-- R171, R179: with EDGE_EN = 0 no event writes the decoder. -/
theorem arrive_edc_of_disabled {s : State} (disabled : s.edc.edgeEn = false) (ev : Event) :
    (arrive ev s).edc = s.edc := by
  cases ev with
  | edge lvl t => rw [arrive_of_disabled (ev := .edge lvl t) disabled]; rfl
  | rxbyte | tick => simp only [arrive, handle, discardEvent]; split_ifs <;> rfl

/-- R171, R179: with RX_EN = 0 no event writes the receive side but for RXOVR. -/
theorem arrive_rx_of_disabled {s : State} (disabled : s.rx.en = false) (ev : Event) :
    ∃ ovr, (arrive ev s).rx = { s.rx with ovr := ovr } := by
  cases ev with
  | rxbyte b => rw [arrive_of_disabled (ev := .rxbyte b) disabled]; exact ⟨true, rfl⟩
  | edge | tick => refine ⟨s.rx.ovr, ?_⟩; simp only [arrive, handle, discardEvent]; split_ifs <;> rfl

/-- R26, R38: a decoder that is disabled, with no edge latched for it, keeps all but DIAG until it is re-armed. -/
theorem exec_edc_of_disabled {i : Instr} {s t : State} (disabled : s.edc.edgeEn = false)
    (noLatch : s.ids.epend = false) (notRearm : i ≠ .cmdIrRearm) (ran : exec i s = .next t) :
    ∃ diag, t.edc = { s.edc with diag := diag } := by
  cases exec_effect ran with
  | event _ ev => exact ⟨s.edc.diag, arrive_edc_of_disabled disabled ev⟩
  | drain _ asleep => exact ⟨s.edc.diag, by simp [drained, noLatch]⟩
  | irRearm => exact absurd rfl notRearm
  | rxRearm => exact ⟨_, rfl⟩
  | other => exact ⟨_, rfl⟩

/-- R33, R38: a framer that is disabled, with no byte latched for it, keeps all but RXOVR until it is re-armed. -/
theorem exec_rx_of_disabled {i : Instr} {s t : State} (disabled : s.rx.en = false)
    (noLatch : s.ids.rpend = false) (notRearm : i ≠ .cmdRxRearm) (ran : exec i s = .next t) :
    ∃ ovr, t.rx = { s.rx with ovr := ovr } := by
  cases exec_effect ran with
  | event _ ev => exact arrive_rx_of_disabled disabled ev
  | drain _ asleep => exact ⟨s.rx.ovr, by simp [drained, noLatch]⟩
  | irRearm => exact ⟨_, rfl⟩
  | rxRearm => exact absurd rfl notRearm
  | other => exact ⟨_, rfl⟩

/-- R52 (a), (i): a full IR mailbox has its source disabled and nothing latched for it. -/
theorem Inv.irMailbox_closed {s : State} (h : Inv s) (full : s.edc.irrdy = true) :
    s.edc.edgeEn = false ∧ s.ids.epend = false := by
  have disabled : s.edc.edgeEn = false := by simp [h.edc.enableIsNotReady, full]
  exact ⟨disabled, Bool.eq_false_iff.mpr fun latched => by simp [h.ids.edgeLatched latched] at disabled⟩

/-- R52 (b), R38: a full packet mailbox has its source disabled and nothing latched for it. -/
theorem Inv.packetMailbox_closed {s : State} (h : Inv s) (full : s.rx.rdy = true) :
    s.rx.en = false ∧ s.ids.rpend = false := by
  have disabled : s.rx.en = false := by simp [h.rx.enableIsNotReady, full]
  exact ⟨disabled, Bool.eq_false_iff.mpr fun latched => by simp [h.ids.byteLatched latched] at disabled⟩

/-- Settles O50: a full mailbox's source is disabled with an empty latch, so that only the re-arm writes its unit. -/
theorem fullMailboxIsStable : Obligations.FullMailboxIsStable := by
  intro s t i h ran
  refine ⟨fun full notRearm => ?ir, fun full notRearm => ?packet⟩
  case ir =>
    obtain ⟨disabled, noLatch⟩ := h.irMailbox_closed full
    obtain ⟨diag, kept⟩ := exec_edc_of_disabled disabled noLatch notRearm ran
    rw [kept]; exact ⟨full, rfl, disabled⟩
  case packet =>
    obtain ⟨disabled, noLatch⟩ := h.packetMailbox_closed full
    obtain ⟨ovr, kept⟩ := exec_rx_of_disabled disabled noLatch notRearm ran
    rw [kept]; exact ⟨full, rfl, rfl, rfl, disabled⟩

/-! ### The transmit queue (R67, R240, R247) -/

/-- R148, R269: an instruction changes TXQ at most by bytes at its end. -/
theorem exec_q_appends {i : Instr} {s t : State} (ran : exec i s = .next t) : ∃ sent, t.tx.q = s.tx.q ++ sent := by
  cases exec_effect ran with
  | event _ ev =>
    obtain ⟨e, r, d, arrived, -⟩ := arrive_frame ev s
    exact ⟨[], by simp [arrived]⟩
  | drain | irRearm | rxRearm => exact ⟨[], (List.append_nil _).symm⟩
  | other _ _ _ _ _ sent appended => exact ⟨sent, appended⟩

/-- R240: TXQ is as it was, or its head has been taken. -/
def AtMostHeadTaken (s t : State) : Prop := t.tx.q = s.tx.q ∨ ∃ b, s.tx.q = b :: t.tx.q

theorem takeFromDevice_atMostHeadTaken (s : State) (k : Byte → Link → Link) :
    AtMostHeadTaken s (takeFromDevice s k) := by
  obtain ⟨q, l, taken, atMostHead⟩ := takeFromDevice_frame s k
  rw [taken]; exact atMostHead

theorem hostAttempt_atMostHeadTaken (succeeds : Bool) (s : State) : AtMostHeadTaken s (hostAttempt succeeds s) := by
  unfold hostAttempt
  split
  case h_2 =>
    split_ifs
    · exact takeFromDevice_atMostHeadTaken _ _
    · exact .inl rfl
    · exact .inl rfl
  all_goals exact .inl rfl

theorem hostReceive_atMostHeadTaken (s : State) : AtMostHeadTaken s (hostReceive s) := by
  unfold hostReceive
  split
  case h_1 => exact takeFromDevice_atMostHeadTaken _ _
  all_goals exact .inl rfl

/-- R240, R242: a host move takes at most the byte at the head of TXQ, and hands the block no operation. -/
theorem hostTurn_cases (m : HostMove) (s : State) :
    (∃ r, hostTurn m s = .stop r) ∨ ∃ s', hostTurn m s = .done s' ∧ AtMostHeadTaken s s' := by
  cases m with
  | send p written =>
    simp only [hostTurn]
    split
    · exact .inr ⟨_, rfl, .inl rfl⟩
    · exact .inl ⟨_, rfl⟩
  | attempt succeeds => exact .inr ⟨_, rfl, hostAttempt_atMostHeadTaken succeeds s⟩
  | receive => exact .inr ⟨_, rfl, hostReceive_atMostHeadTaken s⟩
  | poll => refine .inr ⟨_, rfl, .inl ?_⟩; unfold hostPoll; split <;> rfl
  | exit => exact .inr ⟨_, rfl, .inl rfl⟩

theorem consumerAct_leaves_tx (a : ConsumerAct) (s : State) : (consumerAct a s).Leaves (fun s' => s'.tx = s.tx) := by
  cases a with
  | takeFrame bytes => simp only [consumerAct]; split <;> rfl
  | _ => rfl

/-- R67, R240: before the block's operation only the host touches the transmit side. -/
theorem takeTurn_leaves_tx {t : Turn} (notHost : ∀ m, t ≠ .host m) (s : State) :
    (takeTurn t s).Leaves (fun s' => s'.tx = s.tx) := by
  cases t with
  | event w => rfl
  | pin dtNs lvl => rfl
  | deliver => simp only [takeTurn, deliverTurn]; split <;> rfl
  | consumer =>
    simp only [takeTurn, consumerTurn]
    split
    · rfl
    · split
      · rfl
      · exact consumerAct_leaves_tx _ _
  | host m => exact absurd rfl (notHost m)

/-- R8: only under a well-formed configuration does a step answer a state. -/
theorem cfg_wf_of_step {s t : State} (stepped : step s = .next t) : s.cfg.wf = true := by
  by_contra ill
  simp [step, fetch, ill] at stepped

/-- R240, R247: what a step does to TXQ on the host's turn. -/
theorem step_host_atMostHeadTaken {s t : State} {m : HostMove} {ts : List Turn} (turn : s.turns = .host m :: ts)
    (stepped : step s = .next t) : AtMostHeadTaken s t := by
  have fetched : fetch s = hostTurn m { s with turns := ts } := fetch_turn (cfg_wf_of_step stepped) turn
  rcases hostTurn_cases m { s with turns := ts } with ⟨r, stop⟩ | ⟨s', done, atMostHead⟩
  · simp [step, fetched, stop] at stepped
  · rw [step_of_done (fetched.trans done)] at stepped
    cases stepped; exact atMostHead

/-- R67: the state any other agent's turn leaves has the transmit side it found. -/
theorem fetch_leaves_tx {s : State} (notHost : ∀ m ts, s.turns ≠ .host m :: ts) :
    (fetch s).Leaves (fun s' => s'.tx = s.tx) := by
  unfold fetch
  split
  · split
    case h_1 => rfl
    case h_2 t ts turn => exact takeTurn_leaves_tx (fun m isHost => notHost m ts (isHost ▸ turn)) _
  · trivial

/-- R67, R148: what a step does to TXQ on any other agent's turn. -/
theorem step_q_appends {s t : State} (notHost : ∀ m ts, s.turns ≠ .host m :: ts) (stepped : step s = .next t) :
    ∃ sent, t.tx.q = s.tx.q ++ sent := by
  have left := fetch_leaves_tx notHost
  rcases step_next_cases stepped with done | ⟨e, i, s', run, -, ran⟩
  · rw [done] at left
    have kept : t.tx = s.tx := left
    exact ⟨[], by simp [kept]⟩
  · rw [run] at left
    have kept : s'.tx = s.tx := left
    exact kept ▸ exec_q_appends ran

/-- Settles O52: the host's turn takes at most the head, and on any other turn bytes are at most appended. -/
theorem transmitQueueLosesNothing : Obligations.TransmitQueueLosesNothing := by
  intro s t stepped
  by_cases host : ∃ m ts, s.turns = .host m :: ts
  · obtain ⟨m, ts, turn⟩ := host
    rcases step_host_atMostHeadTaken turn stepped with kept | ⟨b, taken⟩
    · exact .inl ⟨[], by simp [kept]⟩
    · exact .inr ⟨m, ts, b, turn, taken⟩
  · exact .inl (step_q_appends (fun m ts turn => host ⟨m, ts, turn⟩) stepped)

end Sys2Proof
end

section
/-! The encodings: every word of a channel is an encoded instruction or refused, so that the decoder and the encoder
undo each other; reserved words and frames that do not fit are refused (30_encoding.md R80 to R93). -/

namespace Sys2Proof

open Sys2Proof.Machine

/-! ### Commands (R87, R88, R182) -/

/-- R86: a write to CMD is its command code. -/
theorem decode_command (code : Byte) : decode (.access (encodeCommand code)) = decodeCommand code := by
  rw [encodeCommand, decode_write, if_pos rfl]

/-- R87: the code of a named command is the one its encoding writes. -/
theorem encode_of_decodeCommand {code : Byte} {i : Instr} (h : decodeCommand code = .ok i) :
    encode i = .access (encodeCommand code) := by
  unfold decodeCommand at h
  split_ifs at h <;> cases h <;> subst code <;> rfl

/-- R88: the codes that name no command. -/
theorem decodeCommand_reserved {code : Byte} (reserved : code.toNat = 0 ∨ 8 ≤ code.toNat) :
    decodeCommand code = .error .reservedCommand := by
  have unnamed : ∀ k : Byte, 1 ≤ k.toNat → k.toNat ≤ 7 → code ≠ k := by
    rintro k lo hi rfl
    omega
  simp [decodeCommand, unnamed]

/-- Settles O12: a reserved code is none of the seven the decoder compares it with. -/
theorem reservedCommandRefused : Obligations.ReservedCommandRefused := by
  intro s code reserved
  simp only [issue, decode_command, decodeCommand_reserved reserved, refusalOf]

/-! ### Decode of encode (R80 to R91) -/

/-- R89: the length byte of a text that fits CAP holds its length. -/
theorem length_lt_of_framePrint_wf {c : Config} {text : List Byte} (hc : c.wf = true)
    (fits : (Instr.framePrint text).wf c = true) : (opPrint :: text).length < 256 := by
  have hcap := Config.cap_le_of_wf hc
  have hlen : text.length + 1 ≤ c.cap := by simpa [Instr.wf] using fits
  rw [List.length_cons]
  omega

/-- Settles O8: by the decoder's law for each form; of the operands only a print text can be too long for its
encoding, and one that fits CAP is not. -/
theorem decodeOfEncode : Obligations.DecodeOfEncode := by
  intro c i hc fits
  cases i with
  | edge lvl ticks => exact decode_edge lvl ticks
  | rxbyte b => exact decode_rxbyte b
  | tick => rfl
  | rd off => exact decode_read off
  | wrTxlen v => exact decode_write 0x0B#7 v
  | wrTxbuf i v => exact decode_wrTxbuf i v
  | cmdIrRearm | cmdRxRearm | cmdTxSend | cmdMask | cmdUnmask | cmdWait | cmdClrdiag => exact decode_command _
  | framePrint text => exact decodeFrame_frameBytes decodePayloadIn (length_lt_of_framePrint_wf hc fits)
  | frameClear | frameDim | frameHome | frameGoto | frameRaw | frameDecoderEvent | frameDone => rfl

/-! ### Words by their fields -/

/-- A field has a value exactly if the number it cuts out of the word is that value. -/
theorem extractLsb'_eq_iff {n start len : Nat} {x : BitVec n} {y : BitVec len} :
    x.extractLsb' start len = y ↔ x.toNat / 2 ^ start % 2 ^ len = y.toNat := by
  rw [← BitVec.toNat_inj, toNat_extractLsb'_eq]

/-- A bit is the field of width 1. -/
theorem toNat_getLsbD {n : Nat} (x : BitVec n) (k : Nat) : (x.getLsbD k).toNat = x.toNat / 2 ^ k % 2 :=
  Nat.toNat_testBit _ _

/-! ### Event words (R80 to R84) -/

theorem encodeEdge_toNat (lvl : Bool) (t : Ticks) :
    (encodeEdge lvl t).toNat = 2 ^ 28 + 2 ^ 24 * lvl.toNat + t.toNat := by
  simp only [encodeEdge, toNat_append_eq_add, BitVec.toNat_ofNat, BitVec.toNat_ofBool]
  omega

theorem encodeRxbyte_toNat (b : Byte) : (encodeRxbyte b).toNat = 2 ^ 29 + b.toNat := by
  simp only [encodeRxbyte, toNat_append_eq_add, BitVec.toNat_ofNat]
  omega

/-- R81: a word of kind 1 with no bit set outside the fields. -/
theorem eq_encodeEdge {w : EventWord} (kind : w.extractLsb' 28 4 = 0x1#4) (zeros : w.extractLsb' 25 3 = 0#3) :
    w = encodeEdge (w.getLsbD 24) (w.extractLsb' 0 24) := by
  rw [extractLsb'_eq_iff, BitVec.toNat_ofNat] at kind zeros
  apply BitVec.eq_of_toNat_eq
  rw [encodeEdge_toNat, toNat_getLsbD, toNat_extractLsb'_eq]
  omega

/-- R82: a word of kind 2 with no bit set outside the field. -/
theorem eq_encodeRxbyte {w : EventWord} (kind : w.extractLsb' 28 4 = 0x2#4) (zeros : w.extractLsb' 8 20 = 0#20) :
    w = encodeRxbyte (w.extractLsb' 0 8) := by
  rw [extractLsb'_eq_iff, BitVec.toNat_ofNat] at kind zeros
  apply BitVec.eq_of_toNat_eq
  rw [encodeRxbyte_toNat, toNat_extractLsb'_eq]
  omega

/-- R83: the word of kind 3. -/
theorem eq_encodeTick {w : EventWord} (kind : w.extractLsb' 28 4 = 0x3#4) (zeros : w.extractLsb' 0 28 = 0#28) :
    w = encodeTick := by
  rw [extractLsb'_eq_iff, BitVec.toNat_ofNat] at kind zeros
  apply BitVec.eq_of_toNat_eq
  rw [encodeTick, BitVec.toNat_ofNat]
  omega

/-- R80 to R84: every event word is the encoding of an event or is refused. -/
theorem eventWord_cases (w : EventWord) :
    (∃ lvl t, w = encodeEdge lvl t) ∨ (∃ b, w = encodeRxbyte b) ∨ w = encodeTick
      ∨ decode (.event w) = .error .reservedEvent := by
  simp only [decode, decodeEvent]
  split_ifs with edge zeros rxbyte zeros tick zeros
  · exact .inl ⟨_, _, eq_encodeEdge edge zeros⟩
  · exact .inr (.inr (.inr rfl))
  · exact .inr (.inl ⟨_, eq_encodeRxbyte rxbyte zeros⟩)
  · exact .inr (.inr (.inr rfl))
  · exact .inr (.inr (.inl (eq_encodeTick tick zeros)))
  · exact .inr (.inr (.inr rfl))
  · exact .inr (.inr (.inr rfl))

/-- R81, R84: EDGE with ticks that do not fit W_TICK. -/
theorem exec_edge_overflow {s : State} {t : Ticks} (overflow : 2 ^ s.cfg.wTick ≤ t.toNat) (lvl : Bool) :
    exec (.edge lvl t) s = .refused .reservedEvent := by
  rw [exec, execEdge, if_neg (by omega)]

/-- R81: the only bits of an encoded EDGE that can be reserved are the tick bits from W_TICK up. -/
theorem ticks_of_reserved_edge {c : Config} {lvl : Bool} {t : Ticks} (h : reservedEventWord c (encodeEdge lvl t)) :
    2 ^ c.wTick ≤ t.toNat := by
  have ht := t.isLt
  have hl := Bool.toNat_le lvl
  unfold reservedEventWord at h
  rw [encodeEdge_toNat] at h
  have kind : (2 ^ 28 + 2 ^ 24 * lvl.toNat + t.toNat) / 2 ^ 28 = 1 := by omega
  have zeros : (2 ^ 28 + 2 ^ 24 * lvl.toNat + t.toNat) / 2 ^ 25 % 8 = 0 := by omega
  have ticks : (2 ^ 28 + 2 ^ 24 * lvl.toNat + t.toNat) % 2 ^ 24 = t.toNat := by omega
  rw [kind, zeros, ticks] at h
  by_contra fits
  have := Nat.div_eq_of_lt (Nat.lt_of_not_le fits)
  omega

theorem not_reserved_rxbyte (c : Config) (b : Byte) : ¬ reservedEventWord c (encodeRxbyte b) := by
  have hb := b.isLt
  unfold reservedEventWord
  rw [encodeRxbyte_toNat]
  omega

theorem not_reserved_tick (c : Config) : ¬ reservedEventWord c encodeTick := by
  unfold reservedEventWord
  rw [encodeTick, BitVec.toNat_ofNat]
  omega

/-- Settles O11: a reserved word that encodes an event is an EDGE whose ticks do not fit W_TICK. -/
theorem reservedEventWordRefused : Obligations.ReservedEventWordRefused := by
  intro s w reserved
  rcases eventWord_cases w with ⟨lvl, t, rfl⟩ | ⟨b, rfl⟩ | rfl | refused
  · simp only [issue, decode_edge]
    exact exec_edge_overflow (ticks_of_reserved_edge reserved) lvl
  · exact absurd reserved (not_reserved_rxbyte _ b)
  · exact absurd reserved (not_reserved_tick _)
  · simp only [issue, refused, refusalOf]

/-! ### Access words (R85 to R88) -/

/-- R85: an access word with its direction bit set is the write of its data byte to its offset. -/
theorem eq_encodeWrite {w : AccessWord} (write : w.getLsbD 15 = true) :
    w = encodeWrite (w.extractLsb' 8 7) (w.extractLsb' 0 8) := by
  have top := toNat_getLsbD w 15
  rw [write, Bool.toNat_true] at top
  apply BitVec.eq_of_toNat_eq
  simp only [encodeWrite, toNat_append_eq_add, toNat_extractLsb'_eq, BitVec.toNat_ofNat]
  omega

/-- R85: a read with its data byte written as 0. -/
theorem encodeRead_of_read {w : AccessWord} (read : w.getLsbD 15 = false) :
    encodeRead (w.extractLsb' 8 7) = w &&& 0xFF00#16 := by
  have top : w[15] = false := read
  apply BitVec.eq_of_getLsbD_eq
  intro k hk
  simp only [encodeRead, BitVec.getLsbD_append, BitVec.getLsbD_extractLsb', BitVec.getLsbD_and]
  interval_cases k <;> simp [top]

/-- R40: an offset in the rows of TXBUF is 0x60 and the index. -/
theorem eq_txbufOffset {off : Offset} (row : off.extractLsb' 5 2 = 0b11#2) : 0b11#2 ++ off.extractLsb' 0 5 = off := by
  rw [extractLsb'_eq_iff, BitVec.toNat_ofNat] at row
  apply BitVec.eq_of_toNat_eq
  rw [toNat_append_eq_add, toNat_extractLsb'_eq, BitVec.toNat_ofNat]
  omega

/-- R86: a write that decodes is encoded as itself. -/
theorem encode_of_decode_write {off : Offset} {v : Byte} {i : Instr}
    (h : decode (.access (encodeWrite off v)) = .ok i) : encode i = .access (encodeWrite off v) := by
  rw [decode_write] at h
  split_ifs at h with cmd txlen txbuf
  · rw [cmd]; exact encode_of_decodeCommand h
  · cases h; rw [txlen]; rfl
  · cases h; rw [encode, encodeWriteTxbuf, eq_txbufOffset txbuf]

/-- R85, R86: an access word that decodes is encoded as itself, but for the data byte of a read. -/
theorem encode_of_decode_access {w : AccessWord} {i : Instr} (h : decode (.access w) = .ok i) :
    encode i = canonical (.access w) := by
  cases direction : w.getLsbD 15 with
  | true =>
    rw [eq_encodeWrite direction] at h ⊢
    rw [encode_of_decode_write h, canonical, if_pos (encodeWrite_direction _ _)]
  | false =>
    have isRead : i = .rd (w.extractLsb' 8 7) := by
      simp only [decode, decodeAccess, direction, if_true] at h
      cases h; rfl
    rw [isRead, encode, encodeRead_of_read direction, canonical, direction, if_neg Bool.false_ne_true]

/-! ### Frames (R89 to R91) -/

/-- A row of R90 decodes only under its own opcode. -/
theorem opcode_of_row {op row : Byte} {i j : Instr} {err : DecodeError}
    (h : (if op = row then .ok j else .error err : Except DecodeError Instr) = .ok i) : op = row ∧ j = i := by
  split_ifs at h with named
  exact ⟨named, Except.ok.inj h⟩

/-- R90: an inbound payload that decodes is the payload the encoder writes. -/
theorem encode_of_decodePayloadIn {p : List Byte} {i : Instr} (h : decodePayloadIn p = .ok i) :
    encode i = .frameIn (frameBytes p) := by
  rcases p with _ | ⟨op, rest⟩
  · cases h
  by_cases print : op = opPrint
  · subst print
    cases h
    rfl
  simp only [decodePayloadIn, if_neg print] at h
  match rest, h with
  | [], h =>
    dsimp only at h
    split_ifs at h with clear home
    · cases h
      rw [clear]
      rfl
    · cases h
      rw [home]
      rfl
  | [_], h | [_, _], h | [_, _, _], h =>
    obtain ⟨rfl, rfl⟩ := opcode_of_row h
    rfl
  | _ :: _ :: _ :: _ :: _, h => cases h

/-- R90: an outbound payload that decodes is the payload the encoder writes. -/
theorem encode_of_decodePayloadOut {p : List Byte} {i : Instr} (h : decodePayloadOut p = .ok i) :
    encode i = .frameOut (frameBytes p) := by
  unfold decodePayloadOut at h
  split at h
  case h_3 => cases h
  all_goals
    obtain ⟨rfl, rfl⟩ := opcode_of_row h
    rfl

/-- Settles O9: channel by channel; only on the access channel is a word not its own canonical form. -/
theorem encodeOfDecode : Obligations.EncodeOfDecode := by
  intro e i h
  cases e with
  | event w =>
    rcases eventWord_cases w with ⟨lvl, t, rfl⟩ | ⟨b, rfl⟩ | rfl | refused
    · rw [decode_edge] at h; cases h; rfl
    · rw [decode_rxbyte] at h; cases h; rfl
    · cases h; rfl
    · rw [refused] at h; cases h
  | access w => exact encode_of_decode_access h
  | frameIn bytes =>
    obtain ⟨p, rfl, hp⟩ := decodeFrame_ok h
    exact encode_of_decodePayloadIn hp
  | frameOut bytes =>
    obtain ⟨p, rfl, hp⟩ := decodeFrame_ok h
    exact encode_of_decodePayloadOut hp

/-! ### Written-out words and the packed table (R80 to R93) -/

/-- Settles O10: by running the decoder on the ten words. -/
theorem wordsDecodeAsWrittenOut : Obligations.WordsDecodeAsWrittenOut :=
  ⟨rfl, rfl, rfl, rfl, rfl, rfl, rfl, rfl, rfl, rfl⟩

/-- Settles O14: row by row, the four entries of each. -/
theorem packedTransitionTable : Obligations.PackedTransitionTable :=
  ⟨⟨rfl, rfl, rfl, rfl⟩, ⟨rfl, rfl, rfl, rfl⟩, ⟨rfl, rfl, rfl, rfl⟩, ⟨rfl, rfl, rfl, rfl⟩⟩

/-! ### Frames longer than CAP (R89, R148) -/

/-- R211 to R216, R220: a host-to-device frame is taken with its own driver calls, and is well-formed if it fits CAP. -/
theorem HostToDevice.exec_eq {i : Instr} (h : HostToDevice i) :
    ∃ n, (∀ c, i.wf c = decide (n ≤ c.cap)) ∧ ∀ s, exec i s = takeFrame n (driverCalls i) s := by
  obtain ⟨bytes, encoded⟩ := h
  cases i with
  | frameClear => exact ⟨1, fun _ => rfl, fun _ => rfl⟩
  | frameDim level => exact ⟨2, fun _ => rfl, fun _ => rfl⟩
  | frameHome => exact ⟨1, fun _ => rfl, fun _ => rfl⟩
  | frameGoto x y => exact ⟨3, fun _ => rfl, fun _ => rfl⟩
  | framePrint text => exact ⟨text.length + 1, fun _ => rfl, fun s => by rw [← printCalls_eq]; rfl⟩
  | frameRaw byte isChar wait => exact ⟨4, fun _ => rfl, fun _ => rfl⟩
  | _ => cases encoded

theorem takeFrame_overlong {n : Nat} {s : State} (long : s.cfg.cap < n) (calls : List DriverCall) :
    takeFrame n calls s = .refused .frameTooLong := by
  rw [takeFrame, if_neg (by omega)]

theorem sendFrame_overlong {p : List Byte} {s : State} (long : s.cfg.cap < p.length) :
    sendFrame p s = .refused .frameTooLong := by
  rw [sendFrame, if_neg (by omega)]

/-- Settles O43: an ill-formed frame is one whose payload is longer than CAP. -/
theorem overlongFrameRefused : Obligations.OverlongFrameRefused := by
  rintro s i (inbound | rfl | ⟨a, c, rfl⟩) ill
  · obtain ⟨n, fits, taken⟩ := inbound.exec_eq
    have long : s.cfg.cap < n := by simpa [fits] using ill
    rw [taken, takeFrame_overlong long]
  · exact sendFrame_overlong (by simpa [Instr.wf] using ill)
  · exact sendFrame_overlong (by simpa [Instr.wf] using ill)

end Sys2Proof
end

section
/-! The edge-timing decoder, one edge at a time: the interval bands, a law for each branch of the EDGE handler, and what
an edge that is handled at once leaves (40_decoder.md R111 to R120). -/

namespace Sys2Proof.Machine

/-! ### Interval bands (R111) -/

theorem classify_eq_short_iff {c : Config} {t : Nat} :
    classify c t = some .short ↔ c.shortMin ≤ t ∧ t ≤ c.shortMax := by
  unfold classify; split_ifs <;> simp_all

theorem classify_eq_long_iff {c : Config} {t : Nat} :
    classify c t = some .long ↔ ¬ (c.shortMin ≤ t ∧ t ≤ c.shortMax) ∧ c.longMin ≤ t ∧ t ≤ c.longMax := by
  unfold classify; split_ifs <;> simp_all

theorem classify_eq_none_iff {c : Config} {t : Nat} : classify c t = none ↔ InvalidInterval c t := by
  unfold classify InvalidInterval; split_ifs <;> simp_all

/-- R119: no band reaches down to 0. -/
theorem invalidInterval_zero {c : Config} (hc : c.wf = true) : InvalidInterval c 0 := by
  simp only [Config.wf, decide_eq_true_eq] at hc
  unfold InvalidInterval; omega

/-- R119: no band reaches up to the count at which the capture timer saturates. -/
theorem invalidInterval_saturated {c : Config} (hc : c.wf = true) : InvalidInterval c (2 ^ c.wTick - 1) := by
  simp only [Config.wf, decide_eq_true_eq] at hc
  unfold InvalidInterval; omega

/-- Settles O15: the bands are the branches of the classification, and a well-formed configuration leaves 0 and the
saturated count outside them. -/
theorem intervalBands : Obligations.IntervalBands := fun _ _ =>
  ⟨classify_eq_short_iff, classify_eq_long_iff, classify_eq_none_iff, fun hc =>
    ⟨classify_eq_none_iff.mpr (invalidInterval_zero hc), classify_eq_none_iff.mpr (invalidInterval_saturated hc)⟩⟩

/-! ### The branches of the EDGE handler (R119) -/

/-- R113, R115 to R117, from a table state: what becomes of an edge whose next state is `n`. -/
def Edc.enter (n : DState) (e : Edc) : Edc :=
  if n = e.dstate then e.restart .selfmap
  else if n = .MID0 ∨ n = .MID1 then
    if e.cnt = 0#4 then e.restart .underflow else (e.takeBit n).settle n
  else e.settle n

section
variable {c : Config} {e : Edc} {lvl : Bool} {t : Nat}

theorem Edc.edge_begin (begin : e.dstate = .BEGIN) : e.edge c lvl t = e.leading := if_pos begin

theorem Edc.edge_pastTable (past : e.dstate = .ERROR ∨ e.dstate = .END) : e.edge c lvl t = restarted .state e := by
  rw [← Edc.restart_eq]
  rcases past with h | h <;> simp [Edc.edge, h, DState.code]

theorem Edc.edge_invalid (table : TableState e.dstate) (invalid : InvalidInterval c t) :
    e.edge c lvl t = restarted .invalid e := by
  obtain ⟨notBegin, guard⟩ := TableState_guard table
  rw [← Edc.restart_eq]
  simp only [Edc.edge, if_neg notBegin, if_neg guard, classify_eq_none_iff.mpr invalid]

theorem Edc.edge_classified {k : Interval} (table : TableState e.dstate) (known : classify c t = some k) :
    e.edge c lvl t = e.enter (nextState e.dstate k (effectiveLevel c lvl)) := by
  obtain ⟨notBegin, guard⟩ := TableState_guard table
  simp only [Edc.edge, if_neg notBegin, if_neg guard, known, Edc.enter]

end

section
variable {e : Edc} {n : DState}

theorem Edc.enter_same (same : n = e.dstate) : e.enter n = restarted .selfmap e := by
  rw [← Edc.restart_eq]; exact if_pos same

theorem Edc.enter_mid_empty (moves : n ≠ e.dstate) (mid : n = .MID0 ∨ n = .MID1) (empty : e.cnt = 0#4) :
    e.enter n = restarted .underflow e := by
  rw [← Edc.restart_eq, Edc.enter, if_neg moves, if_pos mid, if_pos empty]

theorem Edc.enter_mid (moves : n ≠ e.dstate) (mid : n = .MID0 ∨ n = .MID1) (more : e.cnt ≠ 0#4) :
    e.enter n = (e.takeBit n).settle n := by
  rw [Edc.enter, if_neg moves, if_pos mid, if_neg more]

theorem Edc.enter_start (moves : n ≠ e.dstate) (start : n = .START0 ∨ n = .START1) : e.enter n = e.settle n := by
  rw [Edc.enter, if_neg moves, if_neg (by rcases start with rfl | rfl <;> simp)]

/-- R117: the frame is complete. -/
theorem Edc.settle_complete (empty : e.cnt = 0#4) (last : n = .START1 ∨ n = .MID0) :
    e.settle n = { e with dstate := .END, edgeEn := false, irrdy := true } := if_pos ⟨empty, last⟩

/-- R117: bits are still due. -/
theorem Edc.settle_more (more : e.cnt ≠ 0#4) : e.settle n = { e with dstate := n } := if_neg fun h => more h.1

/-- R117: no frame ends in MID1 or START0. -/
theorem Edc.settle_other (other : n = .MID1 ∨ n = .START0) : e.settle n = { e with dstate := n } :=
  if_neg (by rcases other with rfl | rfl <;> simp)

end

/-! ### One edge handled at once (R112 to R117, R120) -/

/-- Settles O16: BEGIN is the handler's first branch. -/
theorem leadingEdge : Obligations.LeadingEdge := by
  intro s lvl t handled begin
  rw [exec_edge_handled handled, Edc.edge_begin begin]
  refine ⟨rfl, fun full blank => ?_⟩
  simp [Edc.leading, full, blank]

/-- R113 to R117: an edge of a known class, handled in a table state, leads where the table says. -/
theorem exec_edge_classified {s : State} {lvl : Bool} {t : Ticks} {k : Interval} (handled : EdgeHandled s t)
    (table : TableState s.edc.dstate) (known : classify s.cfg t.toNat = some k) :
    exec (.edge lvl t) s =
      .next (afterEdge s (s.edc.enter (nextState s.edc.dstate k (lvl.xor s.cfg.invertLevel)))) := by
  rw [exec_edge_handled handled, Edc.edge_classified table known]; rfl

/-- Settles O17: each cause is a branch of the handler, and each branch restarts with replay. -/
theorem restartWithReplay : Obligations.RestartWithReplay := by
  refine fun s lvl t handled => ⟨fun past => ?_, fun table => ⟨fun invalid => ?_, fun k known =>
    ⟨fun same => ?_, fun moves empty mid => ?_⟩⟩⟩
  · rw [exec_edge_handled handled, Edc.edge_pastTable past]
  · rw [exec_edge_handled handled, Edc.edge_invalid table invalid]
  · rw [exec_edge_classified handled table known, Edc.enter_same same]
  · rw [exec_edge_classified handled table known, Edc.enter_mid_empty moves mid empty]

/-- Settles O18: the next state decides whether a bit is taken, and the counter whether the frame is then complete. -/
theorem bitTakenAndCompletion : Obligations.BitTakenAndCompletion := by
  intro s lvl t k n handled table known next moves
  rw [exec_edge_classified handled table known, next]
  refine ⟨?mid1, ?mid0, ?mid0Last, ?start1Last, ?start1, ?start0, ?underflow⟩
  case mid1 =>
    rintro rfl more
    rw [Edc.enter_mid moves (.inr rfl) more, Edc.settle_other (.inl rfl)]; rfl
  case mid0 =>
    rintro rfl more notLast
    have stillMore : (s.edc.takeBit .MID0).cnt ≠ 0#4 := fun h => notLast (sub_eq_zero.mp h)
    rw [Edc.enter_mid moves (.inl rfl) more, Edc.settle_more stillMore]; rfl
  case mid0Last =>
    rintro rfl last
    have more : s.edc.cnt ≠ 0#4 := by rw [last]; decide
    have empty : (s.edc.takeBit .MID0).cnt = 0#4 := by simp [last]
    rw [Edc.enter_mid moves (.inl rfl) more, Edc.settle_complete empty (.inr rfl)]
    simp [Edc.takeBit, last]
  case start1Last =>
    rintro rfl empty
    rw [Edc.enter_start moves (.inr rfl), Edc.settle_complete empty (.inl rfl)]
  case start1 =>
    rintro rfl more
    rw [Edc.enter_start moves (.inr rfl), Edc.settle_more more]
  case start0 =>
    rintro rfl
    rw [Edc.enter_start moves (.inl rfl), Edc.settle_other (.inr rfl)]
  case underflow =>
    intro mid empty
    rw [Edc.enter_mid_empty moves mid empty]

/-- Settles O19: the command code selects the decoder's `rearm`, which leaves DIAG alone. -/
theorem irRearm : Obligations.IrRearm := ⟨decode_command 0x01#8, fun _ => rfl⟩

end Sys2Proof.Machine
end

section
/-! Runs of edges: the decoder that listens before each of them, and the run of the machine in which the environment
delivers them (40_decoder.md R119, 42_dispatcher.md R171, R173). -/

namespace Sys2Proof

open Sys2Proof.Machine

/-! ### Edges at the decoder -/

/-- The decoder goes from the first state to the second over these edges, listening before each of them. -/
inductive Hears (c : Config) : Edc → List (Bool × Ticks) → Edc → Prop
  | nil (e : Edc) : Hears c e [] e
  | cons {e e' : Edc} {ev : Bool × Ticks} {evs : List (Bool × Ticks)} (enabled : e.edgeEn = true)
      (fits : ev.2.toNat < 2 ^ c.wTick) (rest : Hears c (e.edge c ev.1 ev.2.toNat) evs e') : Hears c e (ev :: evs) e'

theorem Hears.append {c : Config} {e e' e'' : Edc} {evs evs' : List (Bool × Ticks)} (first : Hears c e evs e')
    (second : Hears c e' evs' e'') : Hears c e (evs ++ evs') e'' := by
  induction first with
  | nil => exact second
  | cons enabled fits _ ih => exact .cons enabled fits (ih second)

theorem Hears.split {c : Config} {e e'' : Edc} {evs evs' : List (Bool × Ticks)} (heard : Hears c e (evs ++ evs') e'') :
    ∃ e', Hears c e evs e' ∧ Hears c e' evs' e'' := by
  induction evs generalizing e with
  | nil => exact ⟨e, .nil e, heard⟩
  | cons ev evs ih =>
    cases heard with
    | cons enabled fits rest =>
      obtain ⟨e', before, after⟩ := ih rest
      exact ⟨e', .cons enabled fits before, after⟩

/-- R26: a decoder that still listens in the end listened at the start. -/
theorem Hears.listens {c : Config} {e e' : Edc} {evs : List (Bool × Ticks)} (heard : Hears c e evs e')
    (last : e'.edgeEn = true) : e.edgeEn = true := by
  cases heard with
  | nil => exact last
  | cons enabled => exact enabled

/-- R52: edges that are heard keep the decoder's invariants. -/
theorem Hears.inv {c : Config} {e e' : Edc} {evs : List (Bool × Ticks)} (heard : Hears c e evs e') (inv : EdcInv e) :
    EdcInv e' := by
  induction heard with
  | nil => exact inv
  | cons enabled _ _ ih => exact ih (inv.edge enabled c _ _)

/-! ### Edges at the machine -/

/-- R6, R119, R171: the turn in which an edge is delivered to an unmasked machine that listens. -/
theorem step_edgeTurn {s : State} {ev : Bool × Ticks} {ts : List Turn} (hc : s.cfg.wf = true)
    (turn : s.turns = edgeTurn ev :: ts) (handled : EdgeHandled s ev.2) :
    step s = .next (afterEdge { s with turns := ts } (s.edc.edge s.cfg ev.1 ev.2.toNat)) := by
  obtain ⟨-, executed, -⟩ := stepIssues_of_run (fetch_turn hc turn)
  rw [executed _ (decode_edge ev.1 ev.2)]
  exact exec_edge_handled (s := { s with turns := ts }) handled

/-- Edges that the decoder hears change the decoder unit and wake the consumer. -/
theorem Hears.runsTo {s : State} {ev : Bool × Ticks} {evs : List (Bool × Ticks)} {e : Edc} (hc : s.cfg.wf = true)
    (unmasked : s.ids.gie = true) (heard : Hears s.cfg s.edc (ev :: evs) e) :
    RunsTo ((ev :: evs).map edgeTurn) s (afterEdge { s with turns := [] } e) := by
  induction evs generalizing s ev with
  | nil =>
    cases heard with
    | cons enabled fits rest =>
      cases rest
      exact .cons (step_edgeTurn (s := { s with turns := _ }) hc rfl ⟨enabled, unmasked, fits⟩) rfl (.nil rfl)
  | cons ev' evs ih =>
    cases heard with
    | cons enabled fits rest =>
      exact .cons (step_edgeTurn (s := { s with turns := _ }) hc rfl ⟨enabled, unmasked, fits⟩) rfl
        (ih (s := afterEdge { s with turns := _ } _) hc unmasked rest)

/-- Of any number of edges, none included, the machine is left with the decoder unit that heard them. -/
theorem Hears.exists_runsTo {s : State} {evs : List (Bool × Ticks)} {e : Edc} (hc : s.cfg.wf = true)
    (unmasked : s.ids.gie = true) (heard : Hears s.cfg s.edc evs e) :
    ∃ t, RunsTo (evs.map edgeTurn) s t ∧ t.edc = e := by
  cases evs with
  | nil => cases heard; exact ⟨_, .nil rfl, rfl⟩
  | cons ev evs => exact ⟨_, heard.runsTo hc unmasked, rfl⟩

end Sys2Proof
end

section
/-! Decoding a word from its edges: the decoder follows the line from the middle of one bit to the middle of the next
(40_decoder.md R114, R115, R117, R121). -/

namespace Sys2Proof

open Sys2Proof.Machine

/-! ### The table along the line (R114) -/

/-- The state of the decoder in the middle of a bit. -/
def midState (b : Bool) : DState := if b then .MID1 else .MID0

/-- The state of the decoder between two equal bits. -/
def startState (b : Bool) : DState := if b then .START1 else .START0

theorem midState_table (b : Bool) : TableState (midState b) := by cases b <;> simp [midState, TableState]

theorem startState_table (b : Bool) : TableState (startState b) := by cases b <;> simp [startState, TableState]

theorem midState_injective : Function.Injective midState := by unfold Function.Injective; decide

theorem midState_mid (b : Bool) : midState b = .MID0 ∨ midState b = .MID1 := by cases b <;> simp [midState]

theorem startState_start (b : Bool) : startState b = .START0 ∨ startState b = .START1 := by
  cases b <;> simp [startState]

theorem startState_ne_midState (b b' : Bool) : startState b ≠ midState b' := by cases b <;> cases b' <;> decide

theorem nextState_boundary (b : Bool) : nextState (midState b) .short b = startState b := by cases b <;> rfl

theorem nextState_middle_same (b : Bool) : nextState (startState b) .short (!b) = midState b := by cases b <;> rfl

theorem nextState_middle_other (b : Bool) : nextState (midState (!b)) .long (!b) = midState b := by cases b <;> rfl

/-! ### The bits of a word (R94, R121) -/

/-- The bits of a word below bit `n`, most significant first. -/
def bitsBelow (w : BitVec 14) (n : Nat) : List Bool := (List.range n).map (fun k => w.getLsbD (n - 1 - k))

theorem bitsBelow_thirteen (w : BitVec 14) : bitsBelow w 13 = lowBits w := rfl

theorem bitsBelow_succ (w : BitVec 14) (n : Nat) : bitsBelow w (n + 1) = w.getLsbD n :: bitsBelow w n := by
  simp only [bitsBelow, List.range_succ_eq_map, List.map_cons, List.map_map]
  congr 1
  refine List.map_congr_left fun k _ => ?_
  simp only [Function.comp_apply, show n + 1 - 1 - k.succ = n - 1 - k by omega]

/-- A word whose bits below `n` are still 0. -/
def bitsFrom (w : BitVec 14) (n : Nat) : BitVec 14 := (w >>> n) <<< n

/-- R115: taking bit `n` sets it if it is 1 and leaves it 0 otherwise. -/
theorem bitsFrom_pred (w : BitVec 14) (n : Nat) :
    (if w.getLsbD n then bitsFrom w (n + 1) ||| (1#14 <<< n) else bitsFrom w (n + 1)) = bitsFrom w n := by
  apply BitVec.eq_of_getLsbD_eq
  intro j hj
  rcases lt_trichotomy j n with below | rfl | above
  · split <;> simp [bitsFrom, below, Nat.lt_succ_of_lt below]
  · split <;> simp_all [bitsFrom]
  · split <;> simp [bitsFrom, show ¬ j < n + 1 by omega, show ¬ j < n by omega, show j - n ≠ 0 by omega,
      show n + 1 + (j - (n + 1)) = n + (j - n) by omega]

theorem bitsFrom_zero (w : BitVec 14) : bitsFrom w 0 = w := by simp [bitsFrom]

theorem bitsFrom_thirteen {w : BitVec 14} (top : w.getLsbD 13 = true) : bitsFrom w 13 = 0x2000#14 := by
  have none : bitsFrom w 14 = 0#14 := by simp [bitsFrom]
  rw [← bitsFrom_pred, if_pos top, none]; rfl

/-! ### The counter (R24) -/

theorem ofNat_succ_ne_zero {n : Nat} (h : n ≤ 13) : BitVec.ofNat 4 (n + 1) ≠ 0#4 := by
  rw [ne_eq, ← BitVec.toNat_inj, BitVec.toNat_ofNat, BitVec.toNat_ofNat]; omega

theorem ofNat_succ_pred (n : Nat) : BitVec.ofNat 4 (n + 1) - 1#4 = BitVec.ofNat 4 n := by
  rw [BitVec.ofNat_add]; exact BitVec.add_sub_cancel _ _

/-! ### The decoder along the line -/

/-- The decoder unit in the middle of bit `n` of `w`, that bit taken. -/
def atMid (w : BitVec 14) (n : Nat) (e : Edc) : Edc :=
  { e with dstate := midState (w.getLsbD n), cnt := BitVec.ofNat 4 n, word := bitsFrom w n }

/-- The decoder unit with the whole of `w` decoded (R117). -/
def wholeWord (w : BitVec 14) (e : Edc) : Edc :=
  { e with dstate := .END, cnt := 0#4, word := w, edgeEn := false, irrdy := true }

/-- The decoder unit just after the edge in the middle of bit `n`: a last bit 0 completes the frame there. -/
def arrivedAt (w : BitVec 14) (n : Nat) (e : Edc) : Edc :=
  if n = 0 ∧ w.getLsbD 0 = false then wholeWord w e else atMid w n e

theorem atMid_dstate {w : BitVec 14} {n : Nat} {b : Bool} (bit : w.getLsbD n = b) (e : Edc) :
    (atMid w n e).dstate = midState b := by rw [atMid, bit]

theorem arrivedAt_succ (w : BitVec 14) (n : Nat) (e : Edc) : arrivedAt w (n + 1) e = atMid w (n + 1) e := rfl

theorem arrivedAt_last_zero {w : BitVec 14} (last : w.getLsbD 0 = false) (e : Edc) :
    arrivedAt w 0 e = wholeWord w e := if_pos ⟨rfl, last⟩

theorem arrivedAt_last_one {w : BitVec 14} (last : w.getLsbD 0 = true) (e : Edc) : arrivedAt w 0 e = atMid w 0 e :=
  if_neg (by simp [last])

/-- R112: the middle of bit 13 of a frame is where its leading 1 leaves the decoder. -/
theorem atMid_thirteen {w : BitVec 14} (top : w.getLsbD 13 = true) (e : Edc) :
    atMid w 13 e = { e with dstate := .MID1, cnt := 13#4, word := 0x2000#14 } := by
  rw [atMid, top, bitsFrom_thirteen top]; rfl

/-- R115: from bit `n + 1`, bit `n` is taken. -/
theorem takeBit_midState {w : BitVec 14} {n : Nat} (hn : n ≤ 12) (d : DState) (e : Edc) :
    Edc.takeBit (midState (w.getLsbD n)) { atMid w (n + 1) e with dstate := d } = { atMid w n e with dstate := d } := by
  have bit : midState (w.getLsbD n) = .MID1 ↔ w.getLsbD n = true := by cases w.getLsbD n <;> simp [midState]
  have pos : (BitVec.ofNat 4 n).toNat = n := by simp; omega
  simp only [Edc.takeBit, atMid, ofNat_succ_pred, pos, bit, bitsFrom_pred]

/-- R115, R117: from bit `n + 1` or from the boundary after it, the edge in the middle of bit `n`. -/
theorem enter_midState {w : BitVec 14} {n : Nat} {d : DState} (hn : n ≤ 12) (moves : midState (w.getLsbD n) ≠ d)
    (e : Edc) : Edc.enter (midState (w.getLsbD n)) { atMid w (n + 1) e with dstate := d } = arrivedAt w n e := by
  rw [Edc.enter_mid moves (midState_mid _) (ofNat_succ_ne_zero (by omega)), takeBit_midState hn]
  cases n with
  | zero =>
    cases last : w.getLsbD 0 with
    | false =>
      rw [arrivedAt_last_zero last]
      refine (Edc.settle_complete (n := .MID0) (e := { atMid w 0 e with dstate := d }) rfl (.inr rfl)).trans ?_
      simp only [atMid, wholeWord, bitsFrom_zero]
    | true =>
      rw [arrivedAt_last_one last, atMid, last]
      exact Edc.settle_other (n := .MID1) (.inl rfl)
  | succ m => rw [Edc.settle_more (ofNat_succ_ne_zero (by omega))]; rfl

/-! ### The edges of a word (R121) -/

/-- R111: an edge of a known class and level, as the handler of a table state meets it. -/
theorem EdgeIs.edge {c : Config} {ev : Bool × Ticks} {k : Interval} {l : Bool} {e : Edc} (edge : EdgeIs c ev (k, l))
    (table : TableState e.dstate) : e.edge c ev.1 ev.2.toNat = e.enter (nextState e.dstate k l) := by
  obtain ⟨known, level, -⟩ := edge
  rw [Edc.edge_classified table known, level]

/-- A decoder that listens hears an edge of a known class and level and goes on from there. -/
theorem Hears.cons_edgeIs {c : Config} {ev : Bool × Ticks} {evs : List (Bool × Ticks)} {k : Interval} {l : Bool}
    {e e' : Edc} (edge : EdgeIs c ev (k, l)) (table : TableState e.dstate) (enabled : e.edgeEn = true)
    (rest : Hears c (e.enter (nextState e.dstate k l)) evs e') : Hears c e (ev :: evs) e' :=
  have ⟨_, _, fits⟩ := edge
  .cons enabled fits (edge.edge table ▸ rest)

/-- R117: the edge that ends the last half-bit of a 1 completes the frame. -/
theorem enter_trailing (w : BitVec 14) (e : Edc) :
    Edc.enter (startState true) (atMid w 0 e) = wholeWord w e := by
  rw [Edc.enter_start (startState_ne_midState _ _) (startState_start _),
    Edc.settle_complete (n := startState true) rfl (.inl rfl)]
  simp only [atMid, wholeWord, bitsFrom_zero]

/-- R115, R117: no bit is taken on a boundary, and no frame ends there while bits are due. -/
theorem enter_startState {n : Nat} (hn : n ≤ 12) (b : Bool) (w : BitVec 14) (e : Edc) :
    Edc.enter (startState b) (atMid w (n + 1) e) = { atMid w (n + 1) e with dstate := startState b } := by
  rw [Edc.enter_start (startState_ne_midState _ _) (startState_start b),
    Edc.settle_more (ofNat_succ_ne_zero (by omega))]

/-- R121: from the middle of bit `n` on, the edges of the bits below it complete the word. -/
theorem hears_edgesAfter {c : Config} {w : BitVec 14} {e : Edc} {n : Nat} (hn : n ≤ 13) (enabled : e.edgeEn = true)
    {evs : List (Bool × Ticks)} (edges : List.Forall₂ (EdgeIs c) evs (edgesAfter (w.getLsbD n) (bitsBelow w n))) :
    Hears c (arrivedAt w n e) evs (wholeWord w e) := by
  induction n generalizing evs with
  | zero =>
    cases last : w.getLsbD 0 with
    | false =>
      rw [last] at edges
      cases edges
      rw [arrivedAt_last_zero last]
      exact .nil _
    | true =>
      rw [last] at edges
      obtain _ | ⟨trailing, ⟨⟩⟩ := edges
      rw [arrivedAt_last_one last]
      refine .cons_edgeIs trailing (midState_table _) enabled ?_
      rw [atMid_dstate last, nextState_boundary, enter_trailing]
      exact .nil _
  | succ n ih =>
    rw [arrivedAt_succ]
    rw [bitsBelow_succ] at edges
    by_cases same : w.getLsbD (n + 1) = w.getLsbD n
    · rw [edgesAfter, if_pos same] at edges
      obtain _ | ⟨boundary, _ | ⟨middle, rest⟩⟩ := edges
      refine .cons_edgeIs boundary (midState_table _) enabled ?_
      rw [atMid_dstate same, nextState_boundary, enter_startState (by omega)]
      refine .cons_edgeIs middle (startState_table _) enabled ?_
      rw [nextState_middle_same, enter_midState (by omega) (startState_ne_midState _ _).symm]
      exact ih (by omega) rest
    · rw [edgesAfter, if_neg same] at edges
      obtain _ | ⟨middle, rest⟩ := edges
      have other : w.getLsbD (n + 1) = !w.getLsbD n := Bool.eq_not.mpr same
      have arrived : Edc.enter (midState (w.getLsbD n)) (atMid w (n + 1) e) = arrivedAt w n e :=
        enter_midState (by omega) (midState_injective.ne (Ne.symm same)) e
      refine .cons_edgeIs middle (midState_table _) enabled ?_
      rw [atMid_dstate other, nextState_middle_other, arrived]
      exact ih (by omega) rest

/-- R121: a frame is heard whole once its leading edge has left the decoder in the middle of bit 13. -/
theorem hears_frame {c : Config} {w : BitVec 14} {lead : Bool × Ticks} {evs : List (Bool × Ticks)} {e e' : Edc}
    (top : w.getLsbD 13 = true) (fits : lead.2.toNat < 2 ^ c.wTick) (edges : FrameEdges c w evs)
    (enabled : e.edgeEn = true) (enabled' : e'.edgeEn = true)
    (started : e.edge c lead.1 lead.2.toNat = atMid w 13 e') : Hears c e (lead :: evs) (wholeWord w e') := by
  refine .cons enabled fits (started ▸ ?_)
  exact hears_edgesAfter (n := 13) le_rfl enabled' (by rwa [top, bitsBelow_thirteen])

/-- R112: the leading edge of a frame whose bit 13 is 1, from a decoder that has just been re-armed. -/
theorem edge_leading {w : BitVec 14} (top : w.getLsbD 13 = true) {e : Edc} (begin : e.dstate = .BEGIN)
    (full : e.cnt = 14#4) (blank : e.word = 0#14) (c : Config) (lvl : Bool) (t : Nat) :
    e.edge c lvl t = atMid w 13 e := by
  rw [Edc.edge_begin begin, atMid_thirteen top]
  simp [Edc.leading, full, blank]

/-- Settles O20: the leading edge leaves the decoder in the middle of bit 13, and each bit below is taken in its
middle. -/
theorem decodesEveryWord : Obligations.DecodesEveryWord := by
  intro s w lead evs hc unmasked enabled begin full blank top fits edges
  have heard : Hears s.cfg s.edc (lead :: evs) (wholeWord w s.edc) :=
    hears_frame top fits edges enabled enabled (edge_leading top begin full blank _ _ _)
  exact heard.runsTo hc unmasked

end Sys2Proof
end

section
/-! Self-healing: what a damaged frame can do to the decoder, counted in half-bits of the line, and the next frame after
the idle gap (40_decoder.md R116, R117, R122). -/

namespace Sys2Proof

open Sys2Proof.Machine

/-! ### A decoder that still listens is in a table state -/

theorem Machine.Edc.table_of_settle_enabled {n : DState} {e : Edc} (next : TableState n)
    (enabled : (e.settle n).edgeEn = true) : TableState (e.settle n).dstate := by
  unfold Edc.settle at enabled ⊢
  split at enabled
  case isTrue => cases enabled
  case isFalse more => rwa [if_neg more]

theorem Machine.Edc.table_of_enter_enabled {n : DState} {e : Edc} (next : TableState n)
    (enabled : (e.enter n).edgeEn = true) : TableState (e.enter n).dstate := by
  unfold Edc.enter at enabled ⊢
  split_ifs at enabled ⊢
  · exact .inr (.inl rfl)
  · exact .inr (.inl rfl)
  · exact Edc.table_of_settle_enabled next enabled
  · exact Edc.table_of_settle_enabled next enabled

/-- R113: the three branches of the guard. -/
theorem dstate_cases (d : DState) : d = .BEGIN ∨ TableState d ∨ d = .ERROR ∨ d = .END := by
  cases d <;> simp [TableState]

/-- R117: unless the frame is complete, a handled edge leaves the decoder in a table state. -/
theorem Machine.Edc.table_of_edge_enabled {c : Config} {lvl : Bool} {t : Nat} {e : Edc}
    (enabled : (e.edge c lvl t).edgeEn = true) : TableState (e.edge c lvl t).dstate := by
  rcases dstate_cases e.dstate with begin | table | past
  · rw [Edc.edge_begin begin]; exact .inr (.inl rfl)
  · cases known : classify c t with
    | none => rw [Edc.edge_invalid table (classify_eq_none_iff.mp known)]; exact .inr (.inl rfl)
    | some k =>
      rw [Edc.edge_classified table known] at enabled ⊢
      exact Edc.table_of_enter_enabled (nextState_table k _ table) enabled
  · rw [Edc.edge_pastTable past]; exact .inr (.inl rfl)

theorem Hears.table {c : Config} {e e' : Edc} {ev : Bool × Ticks} {evs : List (Bool × Ticks)}
    (heard : Hears c e (ev :: evs) e') (enabled : e'.edgeEn = true) : TableState e'.dstate := by
  induction evs generalizing e ev with
  | nil =>
    cases heard with
    | cons _ _ rest => cases rest; exact Edc.table_of_edge_enabled enabled
  | cons ev' evs ih =>
    cases heard with
    | cons _ _ rest => exact ih rest

/-! ### Half-bits of the line (R114 (ii)) -/

/-- The time an interval takes. -/
def Machine.Interval.halfBits : Interval → Nat
  | .short => 1
  | .long => 2

/-- The time a sequence of edges takes. -/
def halfBits (edges : List (Interval × Bool)) : Nat := (edges.map (fun edge => edge.1.halfBits)).sum

@[simp] theorem halfBits_nil : halfBits [] = 0 := rfl

@[simp] theorem halfBits_cons (k : Interval) (l : Bool) (edges : List (Interval × Bool)) :
    halfBits ((k, l) :: edges) = k.halfBits + halfBits edges := by simp [halfBits]

@[simp] theorem halfBits_append (before after : List (Interval × Bool)) :
    halfBits (before ++ after) = halfBits before + halfBits after := by simp [halfBits]

theorem halfBits_pos (k : Interval) : 1 ≤ k.halfBits := by cases k <;> decide

/-- R121: two half-bits for each bit, and one for the trailing edge of a last bit 1. -/
theorem halfBits_edgesAfter_le (b : Bool) (bits : List Bool) : halfBits (edgesAfter b bits) ≤ 2 * bits.length + 1 := by
  induction bits generalizing b with
  | nil => cases b <;> decide
  | cons b' bits ih =>
    have rest := ih b'
    rw [edgesAfter]
    split <;> simp [Interval.halfBits] <;> omega

/-- Past a damaged edge of a frame at most 25 half-bits are left; or 26, if it was the first boundary between two 1s, and
then the next edge, in the middle of bit 12, is one that MID1 takes for a glitch. -/
theorem halfBits_after_damage {bits : List Bool} (len : bits.length = 13) {before after : List (Interval × Bool)}
    {edge : Interval × Bool} (damage : edgesAfter true bits = before ++ edge :: after) :
    halfBits after ≤ 25 ∨ ∃ rest, after = (.short, false) :: rest ∧ halfBits rest ≤ 25 := by
  obtain ⟨k, l⟩ := edge
  have edgePos := halfBits_pos k
  cases before with
  | cons earlier before =>
    obtain ⟨k', l'⟩ := earlier
    have earlierPos := halfBits_pos k'
    have total := halfBits_edgesAfter_le true bits
    simp only [damage, List.cons_append, halfBits_cons, halfBits_append, len] at total
    exact .inl (by omega)
  | nil =>
    obtain _ | ⟨b, bits⟩ := bits
    · cases len
    have total := halfBits_edgesAfter_le b bits
    rw [List.length_cons] at len
    cases b with
    | false => cases damage; exact .inl (by omega)
    | true => cases damage; exact .inr ⟨_, rfl, by omega⟩

/-! ### A frame too short to complete (R116, R117) -/

/-- Half-bits since the middle of the bit last taken. -/
def pastMiddle (d : DState) : Nat := if d = .START1 ∨ d = .START0 then 1 else 0

theorem start_of_not_mid {d : DState} (table : TableState d) (notMid : ¬ (d = .MID0 ∨ d = .MID1)) :
    d = .START0 ∨ d = .START1 := by
  revert notMid; rcases table with rfl | rfl | rfl | rfl <;> decide

/-- R114 (ii): the table keeps time, and from the middle of one bit to that of the next two half-bits pass. -/
theorem nextState_time {d : DState} {k : Interval} {l : Bool} (table : TableState d) (moves : nextState d k l ≠ d) :
    pastMiddle d + k.halfBits =
      pastMiddle (nextState d k l) + if nextState d k l = .MID0 ∨ nextState d k l = .MID1 then 2 else 0 := by
  revert moves
  rcases table with rfl | rfl | rfl | rfl <;> cases k <;> cases l <;> decide

/-- The decoder listens in a table state, and its frame still needs more than `h` half-bits of the line: two for each
bit that is due. -/
structure Unfinished (e : Edc) (h : Nat) : Prop where
  table : TableState e.dstate
  enabled : e.edgeEn = true
  cntLe : e.cnt.toNat ≤ 13
  due : h + pastMiddle e.dstate < 2 * e.cnt.toNat

/-- R116: a restart has 13 bits due. -/
theorem unfinished_restarted {e : Edc} {h : Nat} (enabled : e.edgeEn = true) (short : h ≤ 25) (cause : Cause) :
    Unfinished (restarted cause e) h :=
  ⟨.inr (.inl rfl), enabled, le_rfl, by simp [restarted, pastMiddle]; omega⟩

/-- R115 to R117: an edge of a known class takes as much time as it brings the frame forward. -/
theorem Unfinished.enter {e : Edc} {h : Nat} {k : Interval} {l : Bool} (u : Unfinished e (k.halfBits + h)) :
    Unfinished (e.enter (nextState e.dstate k l)) h := by
  obtain ⟨table, enabled, cntLe, due⟩ := u
  have next := nextState_table k l table
  by_cases same : nextState e.dstate k l = e.dstate
  · rw [Edc.enter_same same]
    exact unfinished_restarted enabled (by omega) .selfmap
  have time := nextState_time table same
  have more : e.cnt ≠ 0#4 := by intro empty; simp [empty] at due
  by_cases mid : nextState e.dstate k l = .MID0 ∨ nextState e.dstate k l = .MID1
  · rw [if_pos mid] at time
    have taken : (e.cnt - 1#4).toNat = e.cnt.toNat - 1 := cnt_pred more
    have stillMore : e.cnt - 1#4 ≠ 0#4 := by
      intro empty
      rw [empty, BitVec.toNat_ofNat] at taken
      omega
    rw [Edc.enter_mid same mid more, Edc.settle_more stillMore]
    exact ⟨next, enabled, by simp only [Edc.takeBit_cnt, taken]; omega, by simp only [Edc.takeBit_cnt, taken]; omega⟩
  · rw [if_neg mid] at time
    rw [Edc.enter_start same (start_of_not_mid next mid), Edc.settle_more more]
    exact ⟨next, enabled, cntLe, by dsimp only; omega⟩

theorem Unfinished.hears {c : Config} {e : Edc} {evs : List (Bool × Ticks)} {edges : List (Interval × Bool)}
    (heard : List.Forall₂ (EdgeIs c) evs edges) (u : Unfinished e (halfBits edges)) :
    ∃ e', Hears c e evs e' ∧ Unfinished e' 0 := by
  induction heard generalizing e with
  | nil => exact ⟨e, .nil e, u⟩
  | @cons ev edge evs edges is _ ih =>
    rw [halfBits_cons] at u
    obtain ⟨e', rest, last⟩ := ih u.enter
    exact ⟨e', .cons_edgeIs is u.table u.enabled rest, last⟩

/-! ### The damaged frame (R122) -/

/-- R116: what the decoder makes of the rest of a frame after its damaged edge. -/
theorem hears_after_damage {c : Config} {bits : List Bool} (len : bits.length = 13)
    {before after : List (Interval × Bool)} {edge : Interval × Bool}
    (damage : edgesAfter true bits = before ++ edge :: after) {post : List (Bool × Ticks)}
    (edges : List.Forall₂ (EdgeIs c) post after) {e : Edc} (enabled : e.edgeEn = true) :
    ∃ e', Hears c (restarted .invalid e) post e' ∧ Unfinished e' 0 := by
  rcases halfBits_after_damage len damage with short | ⟨rest, rfl, short⟩
  · exact (unfinished_restarted enabled short .invalid).hears edges
  · obtain _ | ⟨glitch, edges⟩ := edges
    have again : Unfinished (restarted .selfmap (restarted .invalid e)) (halfBits rest) :=
      unfinished_restarted enabled short .selfmap
    obtain ⟨e', heard, last⟩ := again.hears edges
    have glitched : Edc.enter (nextState .MID1 .short false) (restarted .invalid e) =
        restarted .selfmap (restarted .invalid e) := Edc.enter_same rfl
    exact ⟨e', .cons_edgeIs glitch (.inr (.inl rfl)) enabled (glitched ▸ heard), last⟩

/-- Events that have the classes and levels of some edges, taken apart at one event. -/
theorem edges_split {c : Config} {pre post : List (Bool × Ticks)} {ev : Bool × Ticks} {edges : List (Interval × Bool)}
    (all : List.Forall₂ (EdgeIs c) (pre ++ ev :: post) edges) :
    ∃ before edge after, edges = before ++ edge :: after ∧ List.Forall₂ (EdgeIs c) post after := by
  obtain ⟨edge, after, -, last, tail⟩ := List.forall₂_cons_right_iff.mp (List.forall₂_drop_append _ _ _ all.flip)
  exact ⟨edges.take pre.length, edge, after, by rw [← tail, List.take_append_drop], last.flip⟩

/-- R122: the decoder listens before and after every edge of a frame with one INVALID interval. -/
theorem hears_damagedFrame {c : Config} {e : Edc} {v : BitVec 14} {first : Bool × Ticks} {pre post : List (Bool × Ticks)}
    {lvl : Bool} {good bad : Ticks} (enabled : e.edgeEn = true) (begin : e.dstate = .BEGIN) (full : e.cnt = 14#4)
    (blank : e.word = 0#14) (top : v.getLsbD 13 = true) (firstFits : first.2.toNat < 2 ^ c.wTick)
    (edges : FrameEdges c v (pre ++ (lvl, good) :: post)) (badFits : bad.toNat < 2 ^ c.wTick)
    (invalid : InvalidInterval c bad.toNat) :
    ∃ e', Hears c e (first :: pre ++ (lvl, bad) :: post) e' ∧ Unfinished e' 0 := by
  have undamaged : Hears c e (first :: pre ++ (lvl, good) :: post) (wholeWord v e) :=
    hears_frame top firstFits edges enabled enabled (edge_leading top begin full blank _ _ _)
  obtain ⟨m, heardBefore, heardAfter⟩ := undamaged.split
  obtain _ | ⟨listening⟩ := heardAfter
  have table := heardBefore.table listening
  obtain ⟨before, edge, after, damage, edgesPost⟩ := edges_split edges
  obtain ⟨e', heardPost, last⟩ := hears_after_damage (by simp [lowBits]) damage edgesPost listening
  refine ⟨e', heardBefore.append (.cons listening badFits ?_), last⟩
  rwa [Edc.edge_invalid table invalid]

/-! ### The next frame (R116, R122) -/

/-- R116: a leading edge after an idle gap restarts the decoder, wherever it was in a frame, and its replay is the
leading 1 of the frame that is then decoded. -/
theorem hears_frame_after_gap {c : Config} {w : BitVec 14} {lead : Bool × Ticks} {evs : List (Bool × Ticks)} {e : Edc}
    (top : w.getLsbD 13 = true) (fits : lead.2.toNat < 2 ^ c.wTick) (gap : InvalidInterval c lead.2.toNat)
    (edges : FrameEdges c w evs) (enabled : e.edgeEn = true) (table : TableState e.dstate) :
    Hears c e (lead :: evs) (wholeWord w { e with diag := .invalid }) := by
  refine hears_frame top fits edges enabled enabled ?_
  rw [Edc.edge_invalid table gap, atMid_thirteen top]; rfl

/-- R52: the decoder's invariants hold where it waits for a frame with its mailbox empty. -/
theorem edcInv_waiting {e : Edc} (enabled : e.edgeEn = true) (begin : e.dstate = .BEGIN) (full : e.cnt = 14#4)
    (blank : e.word = 0#14) (notReady : e.irrdy = false) : EdcInv e where
  enableIsNotReady := by simp [enabled, notReady]
  readyIffEnd := by simp [notReady, begin]
  notError := by simp [begin]
  cntLe := by simp [full]
  beginFresh := fun _ => ⟨full, blank⟩
  lowBitsClear := by simp [blank]

/-- Settles O21: no damaged frame has time for the bits that are due after its restart, and a frame that is still in
progress is restarted by the idle gap. -/
theorem decodesAfterAnyDamage : Obligations.DecodesAfterAnyDamage := by
  intro s w lead evs hc unmasked enabled top fits gap edges decoded
  have healed {e : Edc} (enabled : e.edgeEn = true) (table : TableState e.dstate) :=
    hears_frame_after_gap top fits gap edges enabled table
  refine ⟨fun table => (healed enabled table).runsTo hc unmasked, ?_⟩
  intro v first pre post lvl good bad begin full blank notReady topV firstFits edgesV badFits invalid damaged
  obtain ⟨e, heard, unfinished⟩ :=
    hears_damagedFrame enabled begin full blank topV firstFits edgesV badFits invalid
  refine ⟨fun k => ?_, (heard.append (healed unfinished.enabled unfinished.table)).runsTo hc unmasked⟩
  have inv := edcInv_waiting enabled begin full blank notReady
  rw [← List.take_append_drop k (first :: pre ++ (lvl, bad) :: post)] at heard
  obtain ⟨m, before, after⟩ := heard.split
  have listening : m.edgeEn = true := after.listens unfinished.enabled
  obtain ⟨t, run, rfl⟩ := before.exists_runsTo hc unmasked
  exact ⟨t, run, ((before.inv inv).listening listening).notReady, listening⟩

end Sys2Proof
end

section
/-! Bytes at consecutive indices of a packet buffer (R32, R35). -/

namespace Sys2Proof.Machine

/-- The bytes written one after another, from index `i` on. -/
def Memory.writeList : Memory → Nat → List Byte → Memory
  | m, _, [] => m
  | m, i, b :: p => Memory.writeList (Memory.write m i b) (i + 1) p

theorem Memory.writeList_wf {m : Memory} (i : Nat) (p : List Byte) (w : Memory.wf m = true) :
    Memory.wf (Memory.writeList m i p) = true := by
  induction p generalizing m i with
  | nil => exact w
  | cons b p ih => exact ih (i + 1) (Memory.write_wf i b w)

/-- The bytes before and after those written are unchanged. -/
theorem Memory.read_writeList_outside {m : Memory} {i j : Nat} {p : List Byte} (w : Memory.wf m = true)
    (outside : j < i ∨ i + p.length ≤ j) : Memory.read (Memory.writeList m i p) j = Memory.read m j := by
  induction p generalizing m i with
  | nil => rfl
  | cons b p ih =>
    rw [List.length_cons] at outside
    rw [Memory.writeList, ih (Memory.write_wf i b w) (by omega), Memory.read_write i j b w, if_neg (by omega)]

theorem Memory.read_writeList_inside {m : Memory} {i k : Nat} {p : List Byte} (w : Memory.wf m = true)
    (inside : k < p.length) : Memory.read (Memory.writeList m i p) (i + k) = p[k] := by
  induction p generalizing m i k with
  | nil => exact absurd inside (Nat.not_lt_zero k)
  | cons b p ih =>
    have wb := Memory.write_wf i b w
    cases k with
    | zero =>
      rw [Memory.writeList, Memory.read_writeList_outside wb (.inl (by omega)), Memory.read_write _ _ _ w]
      simp
    | succ k =>
      rw [Memory.writeList, show i + (k + 1) = i + 1 + k by omega]
      exact ih wb (by simpa using inside)

end Sys2Proof.Machine
end

section
/-! The packet length-framer: a law for each branch of the RXBYTE handler, what a byte that is handled at once leaves,
and the framer's commands (41_framer.md R141 to R148). -/

namespace Sys2Proof.Machine

/-! ### The branches of the RXBYTE handler (R141 to R145) -/

section
variable {c : Config} {r : Rx} {b : Byte}

/-- R141. -/
theorem Rx.byte_len_legal (phase : r.phase = .len) (legal : 1 ≤ b.toNat ∧ b.toNat ≤ c.cap) :
    r.byte c b = { r with len := b, cnt := 0x00#8, phase := .data } := by
  simp only [Rx.byte, phase, if_pos legal]

/-- R144. -/
theorem Rx.byte_len_illegal (phase : r.phase = .len) (illegal : b.toNat = 0 ∨ c.cap < b.toNat) :
    r.byte c b = { r with lenerr := true } := by
  have notLegal : ¬ (1 ≤ b.toNat ∧ b.toNat ≤ c.cap) := by omega
  simp only [Rx.byte, phase, if_neg notLegal]

/-- R142. -/
theorem Rx.byte_payload_more (phase : r.phase = .data) (more : r.cnt + 1#8 ≠ r.len) :
    r.byte c b = { r with buf := Memory.write r.buf r.cnt.toNat b, cnt := r.cnt + 1#8 } := by
  simp only [Rx.byte, phase, Rx.store, if_neg more]

/-- R143. -/
theorem Rx.byte_payload_last (phase : r.phase = .data) (last : r.cnt + 1#8 = r.len) :
    r.byte c b = { r with
      buf := Memory.write (Memory.write r.buf r.cnt.toNat b) r.len.toNat 0x00#8
      cnt := r.cnt + 1#8, rdy := true, en := false } := by
  simp only [Rx.byte, phase, Rx.store, if_pos last]

end

/-! ### One byte handled at once (R171, R173, R174) -/

/-- R52 (b): the framer accepts a byte only while its mailbox is empty. -/
theorem not_rdy_of_byteHandled {s : State} (handled : ByteHandled s) : s.rx.rdy = false := by
  obtain ⟨-, empty, -⟩ := handled
  exact empty

section
variable {s : State} {b : Byte}

/-- R171, R173: a byte that is accepted and unmasked runs the RXBYTE handler. -/
theorem exec_rxbyte_handled (handled : ByteHandled s) :
    exec (.rxbyte b) s = .next (handle (.rxbyte b) s) := by
  obtain ⟨enabled, -, unmasked⟩ := handled
  simp [exec, execRxbyte, arrive, sourceEnabled, enabled, unmasked]

/-- R174: a byte that leaves the mailbox empty does not wake the consumer. -/
theorem exec_rxbyte_incomplete {r : Rx} (handled : ByteHandled s) (left : s.rx.byte s.cfg b = r)
    (empty : r.rdy = false) : exec (.rxbyte b) s = .next { s with rx := r } := by
  simp [exec_rxbyte_handled handled, handle, left, empty]

/-- R174: a byte that completes a frame wakes the consumer. -/
theorem exec_rxbyte_complete {r : Rx} (handled : ByteHandled s) (left : s.rx.byte s.cfg b = r)
    (ready : r.rdy = true) : exec (.rxbyte b) s = .next (awake { s with rx := r }) := by
  simp [exec_rxbyte_handled handled, handle, left, ready, State.wake, awake]

/-- R141. -/
theorem exec_rxbyte_len_legal (handled : ByteHandled s) (phase : s.rx.phase = .len)
    (legal : 1 ≤ b.toNat ∧ b.toNat ≤ s.cfg.cap) :
    exec (.rxbyte b) s = .next { s with rx := { s.rx with len := b, cnt := 0x00#8, phase := .data } } :=
  exec_rxbyte_incomplete handled (Rx.byte_len_legal phase legal) (not_rdy_of_byteHandled handled)

/-- R142. -/
theorem exec_rxbyte_payload_more (handled : ByteHandled s) (phase : s.rx.phase = .data)
    (more : s.rx.cnt + 1#8 ≠ s.rx.len) :
    exec (.rxbyte b) s = .next { s with rx := { s.rx with
      buf := Memory.write s.rx.buf s.rx.cnt.toNat b, cnt := s.rx.cnt + 1#8 } } :=
  exec_rxbyte_incomplete handled (Rx.byte_payload_more phase more) (not_rdy_of_byteHandled handled)

/-- R143. -/
theorem exec_rxbyte_payload_last (handled : ByteHandled s) (phase : s.rx.phase = .data)
    (last : s.rx.cnt + 1#8 = s.rx.len) :
    exec (.rxbyte b) s = .next (awake { s with rx := { s.rx with
      buf := Memory.write (Memory.write s.rx.buf s.rx.cnt.toNat b) s.rx.len.toNat 0x00#8
      cnt := s.rx.cnt + 1#8, rdy := true, en := false } }) :=
  exec_rxbyte_complete handled (Rx.byte_payload_last phase last) rfl

end

/-- Settles O22: a legal length and an illegal one are the two branches of the length phase, and neither fills the
mailbox. -/
theorem lengthByte : Obligations.LengthByte := fun _ _ handled phase =>
  ⟨exec_rxbyte_len_legal handled phase, fun illegal =>
    exec_rxbyte_incomplete handled (Rx.byte_len_illegal phase illegal) (not_rdy_of_byteHandled handled)⟩

/-- Settles O23: the byte is one write, and the terminator of a complete frame is a second one. -/
theorem payloadByte : Obligations.PayloadByte := by
  intro s b handled phase hwf
  refine ⟨fun more => ?more, fun last => ?last⟩
  case more =>
    exact ⟨_, exec_rxbyte_payload_more handled phase more, fun j => Memory.read_write _ j b hwf⟩
  case last =>
    refine ⟨_, exec_rxbyte_payload_last handled phase last, fun j => ?_⟩
    rw [Memory.read_write _ _ _ (Memory.write_wf _ b hwf), Memory.read_write _ j b hwf]

/-! ### Commands (R146, R148) -/

/-- Settles O24: the command code selects the framer's `rearm`, which leaves RXBUF alone. -/
theorem rxRearm : Obligations.RxRearm := ⟨decode_command 0x02#8, fun _ => rfl⟩

/-- Settles O25: what joins TXQ behind the length byte are the first TXLEN bytes of the staging buffer. -/
theorem txSend : Obligations.TxSend := by
  refine ⟨decode_command 0x03#8, fun s => ⟨fun legal => ?legal, fun illegal => ?illegal⟩⟩
  case legal =>
    refine ⟨Memory.take s.tx.buf s.tx.len.toNat, ?_, Memory.take_length _ _, Memory.take_getElem _ _⟩
    rw [exec, execCmdTxSend, if_pos legal, Tx.send]
  case illegal => rw [exec, execCmdTxSend, if_neg (by omega)]

end Sys2Proof.Machine
end

section
/-! The run of the machine in which a whole frame is delivered to the framer (41_framer.md R149). -/

namespace Sys2Proof

open Sys2Proof.Machine

/-- R6, R82: a run goes on after the turn in which a byte is delivered from the state that RXBYTE leaves. -/
theorem RunsTo.cons_byteTurn {s m u : State} {b : Byte} {ts : List Turn} (hc : s.cfg.wf = true)
    (executed : exec (.rxbyte b) { s with turns := ts } = .next m) (kept : m.turns = ts) (rest : RunsTo ts m u) :
    RunsTo (byteTurn b :: ts) s u := by
  have fetched : fetch { s with turns := byteTurn b :: ts } = takeTurn _ _ := fetch_turn hc rfl
  obtain ⟨-, stepped, -⟩ := stepIssues_of_run fetched
  exact .cons ((stepped _ (decode_rxbyte b)).trans executed) kept rest

/-- R31: RXCNT does not wrap while payload bytes are due. -/
theorem toNat_cnt_succ {cnt len : Byte} {n : Nat} (due : cnt.toNat + (n + 1) = len.toNat) :
    (cnt + 1#8).toNat = cnt.toNat + 1 := by
  bv_omega

/-- R142, R143: the bytes that a frame in progress is still short of fill the buffer from RXCNT on, and the terminator
follows them. -/
theorem runsTo_payload {s : State} {b : Byte} {p : List Byte} (hc : s.cfg.wf = true) (handled : ByteHandled s)
    (phase : s.rx.phase = .data) (due : s.rx.cnt.toNat + (b :: p).length = s.rx.len.toNat) :
    RunsTo ((b :: p).map byteTurn) s (awake { s with
      turns := []
      rx := { s.rx with
        buf := Memory.write (Memory.writeList s.rx.buf s.rx.cnt.toNat (b :: p)) s.rx.len.toNat 0x00#8
        cnt := s.rx.len, rdy := true, en := false } }) := by
  induction p generalizing s b with
  | nil =>
    have last : s.rx.cnt + 1#8 = s.rx.len := BitVec.eq_of_toNat_eq ((toNat_cnt_succ due).trans due)
    refine .cons_byteTurn hc (exec_rxbyte_payload_last handled phase last) rfl (.nil ?_)
    rw [← last]; rfl
  | cons b' p ih =>
    have next := toNat_cnt_succ due
    have stillDue : (s.rx.cnt + 1#8).toNat + (b' :: p).length = s.rx.len.toNat := by
      rw [next, ← due, List.length_cons (a := b)]; omega
    have more : s.rx.cnt + 1#8 ≠ s.rx.len := fun last => by simp [last] at stillDue
    refine .cons_byteTurn hc (exec_rxbyte_payload_more handled phase more) rfl ?_
    rw [Memory.writeList, ← next]
    exact ih (s := { s with turns := _, rx := { s.rx with
      buf := Memory.write s.rx.buf s.rx.cnt.toNat b, cnt := s.rx.cnt + 1#8 } }) hc handled phase stillDue

/-- Settles O26: the length byte opens the frame, and its payload is what the frame is then short of. -/
theorem framerReceivesEveryFrame : Obligations.FramerReceivesEveryFrame := by
  intro s p hc handled phase hwf pos fits
  have small := Config.cap_le_of_wf hc
  have len : (BitVec.ofNat 8 p.length).toNat = p.length := by rw [BitVec.toNat_ofNat]; omega
  obtain ⟨b, tail, rfl⟩ := List.exists_cons_of_length_pos pos
  have filled := Memory.writeList_wf 0 (b :: tail) hwf
  refine ⟨Memory.write (Memory.writeList s.rx.buf 0 (b :: tail)) (BitVec.ofNat 8 (b :: tail).length).toNat 0x00#8,
    ?run, ?bytes⟩
  case run =>
    exact .cons_byteTurn hc (exec_rxbyte_len_legal handled phase (len.symm ▸ ⟨pos, fits⟩)) rfl
      (runsTo_payload hc handled rfl ((Nat.zero_add _).trans len.symm))
  case bytes =>
    simp only [len, Memory.read_write _ _ _ filled]
    refine ⟨fun j inside => ?payload, if_pos trivial, fun j past => ?later⟩
    case payload =>
      rw [if_neg (by omega)]
      simpa using Memory.read_writeList_inside (i := 0) hwf inside
    case later => rw [if_neg (by omega), Memory.read_writeList_outside hwf (.inr (by omega))]

end Sys2Proof
end

section
/-! The dispatcher: what an event that arrives comes to, when it wakes the consumer, the drain in any order, and the
dispatcher's commands (42_dispatcher.md R171 to R188). -/

namespace Sys2Proof

open Sys2Proof.Machine

/-! ### The branches of an arrival (R171 to R173) -/

/-- R81: the event of an edge whose count fits W_TICK arrives. -/
theorem exec_edge_fits {s : State} {t : Ticks} (fits : t.toNat < 2 ^ s.cfg.wTick) (lvl : Bool) :
    exec (.edge lvl t) s = .next (arrive (.edge lvl t) s) := by
  rw [exec, execEdge, if_pos fits]

/-- R81: an edge is answered only as an event that arrives. -/
theorem exec_edge_next {s u : State} {lvl : Bool} {t : Ticks} (ran : exec (.edge lvl t) s = .next u) :
    u = arrive (.edge lvl t) s := by
  simp only [exec, execEdge] at ran
  split_ifs at ran
  cases ran; rfl

section
variable {ev : Event} {s : State}

/-- R172. -/
theorem arrive_of_masked (enabled : sourceEnabled ev s = true) (masked : s.ids.gie = false) :
    arrive ev s = { s with ids := s.ids.latch ev } := by
  simp [arrive, enabled, masked]

/-- R173. -/
theorem arrive_of_unmasked (enabled : sourceEnabled ev s = true) (unmasked : s.ids.gie = true) :
    arrive ev s = handle ev s := by
  simp [arrive, enabled, unmasked]

end

/-- Settles O27: for each source, the branch of the arrival that enable and GIE choose, and of the latch that is full
or empty. -/
theorem arrivalAndLatching : Obligations.ArrivalAndLatching := by
  intro s
  refine ⟨fun lvl t fits => ?edge, fun b => ?byte, fun masked => ?tickLatched, fun unmasked => ?tickHandled⟩
  case edge =>
    rw [exec_edge_fits fits]
    refine ⟨fun disabled => ?_, fun enabled masked empty => ?_, fun enabled masked full => ?_,
      fun enabled unmasked => congrArg _ (arrive_of_unmasked enabled unmasked)⟩
    · rw [arrive_of_disabled (ev := .edge lvl t) disabled]; rfl
    · simp [arrive_of_masked (ev := .edge lvl t) enabled masked, Ids.latch, empty]
    · simp [arrive_of_masked (ev := .edge lvl t) enabled masked, Ids.latch, full]
  case byte =>
    rw [exec, execRxbyte]
    refine ⟨fun disabled => ?_, fun enabled masked empty => ?_, fun enabled masked full => ?_,
      fun enabled unmasked => congrArg _ (arrive_of_unmasked enabled unmasked)⟩
    · rw [arrive_of_disabled (ev := .rxbyte b) disabled]; rfl
    · simp [arrive_of_masked (ev := .rxbyte b) enabled masked, Ids.latch, empty]
    · simp [arrive_of_masked (ev := .rxbyte b) enabled masked, Ids.latch, full]
  case tickLatched => exact congrArg _ (arrive_of_masked (ev := .tick) rfl masked)
  case tickHandled => exact congrArg _ (arrive_of_unmasked rfl unmasked)

/-! ### The handlers and the wake-up (R174, R177, R179) -/

/-- R174, R179: the RXBYTE handler writes the receive side, and clears SLEEP if the mailbox is then full. -/
theorem handle_rxbyte (b : Byte) (s : State) : handle (.rxbyte b) s = { s with
    rx := s.rx.byte s.cfg b, ids := { s.ids with sleep := s.ids.sleep && !(s.rx.byte s.cfg b).rdy } } := by
  cases completed : (s.rx.byte s.cfg b).rdy <;> simp [handle, State.wake, completed]

/-- R174: does the handler that left this state wake the consumer? -/
def Machine.Event.wakes (ev : Event) (left : State) : Bool :=
  match ev with
  | .edge _ _ | .tick => true
  | .rxbyte _ => left.rx.rdy

theorem handle_sleep (ev : Event) (s : State) :
    (handle ev s).ids.sleep = (s.ids.sleep && !ev.wakes (handle ev s)) := by
  cases ev with
  | rxbyte b => rw [handle_rxbyte]; rfl
  | edge lvl t => exact (Bool.and_false _).symm
  | tick => exact (Bool.and_false _).symm

theorem latch_sleep (ev : Event) (d : Ids) : (d.latch ev).sleep = d.sleep := by
  cases ev <;> simp only [Ids.latch] <;> split_ifs <;> rfl

theorem discardEvent_sleep (ev : Event) (s : State) : (discardEvent ev s).ids.sleep = s.ids.sleep := by
  cases ev <;> rfl

/-- R171, R174: an event that is discarded or latched does not wake the consumer. -/
theorem arrive_sleep (ev : Event) (s : State) : (arrive ev s).ids.sleep =
    (s.ids.sleep && !(s.ids.gie && sourceEnabled ev s && ev.wakes (arrive ev s))) := by
  cases enabled : sourceEnabled ev s
  case false => simp [arrive_of_disabled enabled, discardEvent_sleep]
  case true =>
    cases unmasked : s.ids.gie
    case false => simp [arrive_of_masked enabled unmasked, latch_sleep]
    case true => simp [arrive_of_unmasked enabled unmasked, handle_sleep ev s]

/-- Settles O29: the wake-up of each of the three events. -/
theorem wakeSources : Obligations.WakeSources := by
  intro s t _
  refine ⟨fun lvl n ran => ?edge, fun b ran => ?byte, fun ran => ?tick⟩
  case edge => rw [exec_edge_next ran, arrive_sleep]; simp [sourceEnabled, Event.wakes]
  case byte => cases ran; exact arrive_sleep (.rxbyte b) s
  case tick => cases ran; rw [arrive_sleep]; simp [sourceEnabled, Event.wakes]

/-- Settles O30: a handler names the parts of the state it writes, and an event at a disabled source leaves at most
RXOVR. -/
theorem handlersTouchTheirOwnUnit : Obligations.HandlersTouchTheirOwnUnit := by
  intro s t
  refine ⟨fun lvl n unmasked ran => ?edge, fun b unmasked ran => ?byte, fun unmasked ran => ?tick⟩
  case edge =>
    rw [exec_edge_next ran]
    cases enabled : s.edc.edgeEn
    case false => rw [arrive_of_disabled (ev := .edge lvl n) enabled]; rfl
    case true => rw [arrive_of_unmasked (ev := .edge lvl n) enabled unmasked]; rfl
  case byte =>
    cases ran
    cases enabled : s.rx.en
    case false => rw [arrive_of_disabled (ev := .rxbyte b) enabled]; rfl
    case true => rw [arrive_of_unmasked (ev := .rxbyte b) enabled unmasked, handle_rxbyte]
  case tick => cases ran; rw [arrive_of_unmasked (ev := .tick) rfl unmasked]; rfl

/-- Settles O28: the tick's source is always enabled, and its handler is the wake-up. -/
theorem tickOnlyWakes : Obligations.TickOnlyWakes := fun _ unmasked =>
  congrArg _ (arrive_of_unmasked (ev := .tick) rfl unmasked)

/-! ### The drain (R175, R179, R264) -/

/-- R179: the EDGE and RXBYTE handlers have no part of the state in common but SLEEP, which each at most clears. -/
theorem drainEdge_drainByte_comm (s : State) : drainEdge (drainByte s) = drainByte (drainEdge s) := by
  simp only [drainEdge_eq, drainByte_eq, Bool.and_right_comm]

theorem drainEdge_drainTick_comm (s : State) : drainEdge (drainTick s) = drainTick (drainEdge s) := by
  simp only [drainEdge_eq, drainTick_eq, Bool.and_right_comm]

theorem drainByte_drainTick_comm (s : State) : drainByte (drainTick s) = drainTick (drainByte s) := by
  simp only [drainByte_eq, drainTick_eq, Bool.and_right_comm]

/-- Settles O34: the three drains commute in pairs, so that every order is the spec's. -/
theorem drainOrderInvisible : Obligations.DrainOrderInvisible := by
  intro s
  simp only [drain, drainEdge_drainByte_comm, drainEdge_drainTick_comm, drainByte_drainTick_comm, and_self]

/-! ### The dispatcher's commands (R183 to R186) -/

/-- Settles O32: unmasking leaves SLEEP to the drain. -/
theorem unmaskDrains : Obligations.UnmaskDrains :=
  ⟨decode_command 0x05#8, fun s => congrArg _ (drain_unmasked s.ids.sleep s)⟩

/-- Settles O33: WAIT sets SLEEP before the drain, which may clear it. -/
theorem waitDrains : Obligations.WaitDrains :=
  ⟨decode_command 0x06#8, fun s => congrArg _ (drain_unmasked true s)⟩

/-- Settles O31: the command code selects the write of GIE. -/
theorem maskCommand : Obligations.MaskCommand := ⟨decode_command 0x04#8, fun _ => rfl⟩

/-- Settles O35: the command code selects the writes of DIAG and EVOVR. -/
theorem clearDiagnostics : Obligations.ClearDiagnostics := ⟨decode_command 0x07#8, fun _ => rfl⟩

/-! ### The sleeping consumer (R185, R188, R275) -/

/-- R188: the turn of a sleeping consumer passes. -/
theorem takeTurn_consumer_asleep {s : State} (asleep : s.ids.sleep = true) : takeTurn .consumer s = .done s := by
  simp [takeTurn, consumerTurn, asleep]

/-- Settles O2: the turn passes, and no operation reaches the block. -/
theorem sleepingConsumerHasNoStep : Obligations.SleepingConsumerHasNoStep := fun _ _ hc asleep turn =>
  step_of_done ((fetch_turn hc turn).trans (takeTurn_consumer_asleep asleep))

/-- R188: while the consumer sleeps, a turn hands the block nothing but event words. -/
theorem takeTurn_run_asleep {t : Turn} {s s' : State} {e : Encoded} (asleep : s.ids.sleep = true)
    (run : takeTurn t s = .run e s') : ∃ w, e = .event w := by
  cases t with
  | event w => cases run; exact ⟨_, rfl⟩
  | pin dtNs lvl => cases run; exact ⟨_, rfl⟩
  | deliver =>
    simp only [takeTurn, deliverTurn] at run
    split at run <;> cases run
    exact ⟨_, rfl⟩
  | consumer => rw [takeTurn_consumer_asleep asleep] at run; cases run
  | host m =>
    rw [takeTurn] at run
    rcases hostTurn_cases m s with ⟨r, stop⟩ | ⟨u, done, -⟩
    · rw [stop] at run; cases run
    · rw [done] at run; cases run

theorem fetch_run_asleep {s s' : State} {e : Encoded} (asleep : s.ids.sleep = true) (run : fetch s = .run e s') :
    ∃ w, e = .event w := by
  unfold fetch at run
  split_ifs at run
  split at run
  case h_1 => cases run
  case h_2 t ts _ => exact takeTurn_run_asleep (s := { s with turns := ts }) asleep run

/-- R80, R87: no event word is the command MASK. -/
theorem not_mask_of_event {w : EventWord} {i : Instr} (decoded : decode (.event w) = .ok i) : i ≠ .cmdMask := by
  rintro rfl
  cases encodeOfDecode _ _ decoded

/-- R6, R269: an agent's turn writes no latch and neither GIE nor SLEEP. -/
theorem fetch_leaves_ids (s : State) : (fetch s).Leaves (fun s' => s'.ids = s.ids) :=
  (fetch_leaves_agentsOnly s).mono fun _ ⟨_, _, _, _, written⟩ => written ▸ rfl

theorem SleepsUnmasked.of_ids {s t : State} (h : SleepsUnmasked s) (kept : t.ids = s.ids) : SleepsUnmasked t := by
  rw [SleepsUnmasked, kept]; exact h

/-- R173, R174: an event that arrives keeps GIE and never puts the consumer to sleep. -/
theorem SleepsUnmasked.arrive {s : State} (h : SleepsUnmasked s) (ev : Event) : SleepsUnmasked (arrive ev s) := by
  obtain ⟨e, r, d, arrived, gie⟩ := arrive_frame ev s
  have sleep := arrive_sleep ev s
  rw [arrived] at sleep ⊢
  intro asleep
  rw [asleep, eq_comm, Bool.and_eq_true] at sleep
  exact gie.trans (h sleep.1)

/-- R183 to R185: of the instructions only MASK clears GIE, and only WAIT, which sets GIE, sets SLEEP. -/
theorem SleepsUnmasked.exec {i : Instr} {s t : State} (h : SleepsUnmasked s)
    (maskAwake : i = .cmdMask → s.ids.sleep = false) (ran : exec i s = .next t) : SleepsUnmasked t := by
  cases i with
  | edge lvl ticks => rw [exec_edge_next ran]; exact h.arrive _
  | rxbyte b => cases ran; exact h.arrive _
  | tick => cases ran; exact h.arrive _
  | rd off =>
    simp only [Machine.exec, execRd] at ran
    split at ran <;> cases ran
    obtain ⟨v, n, read⟩ := readRegister_frame _ s
    rw [read]; exact h
  | wrTxbuf idx v =>
    simp only [Machine.exec, execWrTxbuf] at ran
    split_ifs at ran
    cases ran; exact h
  | cmdTxSend =>
    simp only [Machine.exec, execCmdTxSend] at ran
    split_ifs at ran
    cases ran; exact h
  | cmdMask => cases ran; exact fun asleep => absurd asleep (by simp [maskAwake rfl])
  | cmdUnmask => cases ran; exact drain_unmasked s.ids.sleep s ▸ fun _ => rfl
  | cmdWait => cases ran; exact drain_unmasked true s ▸ fun _ => rfl
  | wrTxlen | cmdIrRearm | cmdRxRearm | cmdClrdiag => cases ran; exact h
  | frameClear | frameDim | frameHome | frameGoto | framePrint | frameRaw => rw [takeFrame_next ran]; exact h
  | frameDecoderEvent | frameDone => rw [sendFrame_next ran]; exact h

/-- Settles O6: what a step hands the block while the consumer sleeps is an event, and so not MASK. -/
theorem sleepOnlyUnmasked : Obligations.SleepOnlyUnmasked := by
  intro s t h stepped
  have left := fetch_leaves_ids s
  rcases step_next_cases stepped with done | ⟨e, i, s', run, decoded, ran⟩
  · rw [done] at left
    exact h.of_ids left
  · rw [run] at left
    have kept : s'.ids = s.ids := left
    refine (h.of_ids kept).exec (fun mask => Bool.eq_false_iff.mpr fun asleep => ?_) ran
    obtain ⟨w, rfl⟩ := fetch_run_asleep (kept ▸ asleep) run
    exact not_mask_of_event decoded mask

end Sys2Proof
end

section
/-! The frames as the consumer's actions: the duty for a frame that is taken, the accesses SENDFRAME expands to, and
the payload that is no row of R90 (43_payloads.md R211 to R222). -/

namespace Sys2Proof

open Sys2Proof.Machine

/-- R220: a host-to-device frame that fits CAP is taken up as its duty. -/
theorem HostToDevice.exec_duty {i : Instr} {s : State} (h : HostToDevice i) (fits : i.wf s.cfg = true) :
    exec i s = .next (s.schedule (dutyActs (driverCalls i))) := by
  obtain ⟨n, wf_iff, taken⟩ := h.exec_eq
  have inside : n ≤ s.cfg.cap := by simpa [wf_iff] using fits
  rw [taken, takeFrame, if_pos inside]

/-- R96: a frame that fits CAP is sent as the accesses of SENDFRAME. -/
theorem sendFrame_fits {p : List Byte} {s : State} (fits : p.length ≤ s.cfg.cap) :
    sendFrame p s = .next (s.schedule (sendFrameActs p)) := if_pos fits

/-- Settles O41: the duty is queued whole, and its access words are the written-out ones. -/
theorem hostFrameDuty : Obligations.HostFrameDuty := fun _ _ inbound fits =>
  inbound.exec_duty fits

/-- R40, R86: the high byte of the access word that writes `TXBUF[i]`. -/
theorem encodeWriteTxbuf_eq {i : BitVec 5} {high : Byte} (row : 1#1 ++ (0b11#2 ++ i) = high) (v : Byte) :
    encodeWriteTxbuf i v = high ++ v := congrArg (· ++ v) row

/-- R96, R217: the access words of the decoder event. -/
theorem sendFrameActs_event (a c : Byte) : sendFrameActs [opEvent, a, c] =
    [.access 0xE069#16, .access (0xE1#8 ++ a), .access (0xE2#8 ++ c), .access 0x8B03#16, .access 0x8003#16] := by
  rw [← encodeWriteTxbuf_eq (i := 1#5) (by decide) a, ← encodeWriteTxbuf_eq (i := 2#5) (by decide) c]
  simp only [sendFrameActs, stageActs, List.length_cons, List.length_nil]
  rfl

/-- Settles O42: both frames are SENDFRAME of their payload, whose access words are the written-out ones. -/
theorem deviceFramesSent : Obligations.DeviceFramesSent := fun _ a c =>
  ⟨fun fits => sendFrameActs_event a c ▸ sendFrame_fits (p := [opEvent, a, c]) fits,
    sendFrame_fits (p := [opDone])⟩

/-- R90, R222: a byte string that encodes no host-to-device frame does not decode. -/
theorem decode_frameIn_unknown {bytes : List Byte} (unknown : ∀ i, encode i ≠ .frameIn bytes) :
    ∃ err, decode (.frameIn bytes) = .error err := by
  cases decoded : decode (.frameIn bytes) with
  | error err => exact ⟨err, rfl⟩
  | ok i => exact absurd (encodeOfDecode _ _ decoded) (unknown i)

/-- Settles O46: a frame that does not decode is taken up as `unknownActs`, which end in the done ack under the
parameter. -/
theorem unknownPayloadAcknowledged : Obligations.UnknownPayloadAcknowledged := by
  intro s ts bytes rest hc acks awake turn prog unknown
  obtain ⟨err, decoded⟩ := decode_frameIn_unknown unknown
  obtain ⟨-, -, consumer⟩ := stepRunsTheDecodedInstruction s ts hc
  obtain ⟨-, -, -, queued⟩ := consumer _ rest turn awake prog
  rw [queued bytes err rfl decoded, unknownActs, if_pos acks]
  rfl

end Sys2Proof
end

section
/-! The consumer's turns, one action at a time, and runs of them (43_payloads.md R223). -/

namespace Sys2Proof

open Sys2Proof.Machine

/-! ### One turn of the consumer (R188) -/

/-- `s` with this program before the consumer and this schedule before the agents. -/
def Machine.State.withQueues (p : List ConsumerAct) (ts : List Turn) (s : State) : State :=
  { s with turns := ts, con := { s.con with prog := p } }

/-- R8, R188: the consumer has a step. No turn of it but WAIT changes that, so that the lemmas about its turns find this
hypothesis in the context. -/
def Ready (s : State) : Prop := s.cfg.wf = true ∧ s.ids.sleep = false

/-- In its turn the consumer goes from its program `p` to `p'` and takes the machine from `s` to `t`, whatever turns
follow. The programs and schedules that `s` and `t` hold do not count. -/
def ConsumerTakes (p : List ConsumerAct) (s : State) (p' : List ConsumerAct) (t : State) : Prop :=
  ∀ ts, step (s.withQueues p (.consumer :: ts)) = .next (t.withQueues p' ts)

section
variable {s t : State} {a : ConsumerAct} {p p' : List ConsumerAct}

theorem fetch_withQueues (ready : Ready s) (ts : List Turn) :
    fetch (s.withQueues (a :: p) (.consumer :: ts)) = consumerAct a (s.withQueues p ts) :=
  fetch_consumer (s := s.withQueues (a :: p) (.consumer :: ts)) ready.1 rfl ready.2 rfl

/-- An action that hands the block nothing is the whole turn. -/
theorem ConsumerTakes.of_done (ready : Ready s)
    (done : ∀ ts, consumerAct a (s.withQueues p ts) = .done (t.withQueues p' ts)) :
    ConsumerTakes (a :: p) s p' t := fun ts =>
  step_of_done ((fetch_withQueues ready ts).trans (done ts))

/-- R6: an action that hands the block an operation ends as the operation does. -/
theorem ConsumerTakes.of_run {e : Encoded} {i : Instr} (ready : Ready s)
    (run : ∀ ts, consumerAct a (s.withQueues p ts) = .run e (s.withQueues p ts)) (decoded : decode e = .ok i)
    (executed : ∀ ts, exec i (s.withQueues p ts) = .next (t.withQueues p' ts)) :
    ConsumerTakes (a :: p) s p' t := by
  intro ts
  obtain ⟨-, stepped, -⟩ := stepIssues_of_run ((fetch_withQueues ready ts).trans (run ts))
  exact (stepped i decoded).trans (executed ts)

/-! ### Accesses (R85 to R87) -/

theorem takes_access {w : AccessWord} {i : Instr} (ready : Ready s) (decoded : decode (.access w) = .ok i)
    (executed : ∀ ts, exec i (s.withQueues p ts) = .next (t.withQueues p ts)) :
    ConsumerTakes (.access w :: p) s p t :=
  .of_run ready (fun _ => rfl) decoded executed

/-- R183. -/
theorem takes_mask (ready : Ready s := by assumption) :
    ConsumerTakes (.access (encodeCommand 0x04#8) :: p) s p { s with ids := { s.ids with gie := false } } :=
  takes_access ready (decode_command 0x04#8) fun _ => rfl

/-- R120. -/
theorem takes_irRearm (ready : Ready s := by assumption) : ConsumerTakes (.access (encodeCommand 0x01#8) :: p) s p
    { s with edc := s.edc.rearm, ids := { s.ids with epend := false } } :=
  takes_access ready (decode_command 0x01#8) fun _ => rfl

/-- R146. -/
theorem takes_rxRearm (ready : Ready s := by assumption) : ConsumerTakes (.access (encodeCommand 0x02#8) :: p) s p
    { s with rx := s.rx.rearm, ids := { s.ids with rpend := false } } :=
  takes_access ready (decode_command 0x02#8) fun _ => rfl

/-- R185. -/
theorem takes_wait (ready : Ready s := by assumption) :
    ConsumerTakes (.access (encodeCommand 0x06#8) :: p) s p (drained true s) :=
  takes_access ready (decode_command 0x06#8) fun ts => waitDrains.2 (s.withQueues p ts)

/-- R175: with no event latched there is nothing to drain. -/
theorem drained_of_noLatch (empty : NoLatch s) :
    drained s.ids.sleep s = { s with ids := { s.ids with gie := true } } := by
  obtain ⟨cfg, edc, rx, tx, ⟨gie, epend, ependT, ependL, rpend, rpendB, tpend, evovr, sleep⟩, con, link, turns⟩ := s
  obtain ⟨rfl, rfl, rfl⟩ : epend = false ∧ rpend = false ∧ tpend = false := empty
  simp [drained]

/-- R184. -/
theorem takes_unmask (empty : NoLatch s) (ready : Ready s := by assumption) :
    ConsumerTakes (.access (encodeCommand 0x05#8) :: p) s p { s with ids := { s.ids with gie := true } } :=
  takes_access ready (decode_command 0x05#8) fun ts => by
    rw [unmaskDrains.2, drained_of_noLatch (s := s.withQueues p ts) empty]; rfl

theorem regValue_withQueues (r : Reg) (ts : List Turn) : regValue (s.withQueues p ts) r = regValue s r := by
  cases r <;> rfl

theorem readsAnyValue_withQueues (r : Reg) (ts : List Turn) :
    readsAnyValue (s.withQueues p ts) r = readsAnyValue s r := by
  cases r <;> rfl

/-- R180. -/
theorem takes_read {off : Offset} (r : Reg) (named : regAt s.cfg off = some r)
    (fixed : readsAnyValue s r = false) (ready : Ready s := by assumption) :
    ConsumerTakes (.access (encodeRead off) :: p) s p (returned (regValue s r) s) :=
  takes_access ready (decode_read off) fun ts => by
    rw [exec_rd_defined (s := s.withQueues p ts) r named ((readsAnyValue_withQueues r ts).trans fixed),
      regValue_withQueues]
    rfl

/-- R181. -/
theorem takes_writeTxlen (v : Byte) (ready : Ready s := by assumption) :
    ConsumerTakes (.access (encodeWrite 0x0B#7 v) :: p) s p { s with tx := { s.tx with len := v } } :=
  takes_access ready (decode_write 0x0B#7 v) fun _ => rfl

/-- R181. -/
theorem takes_writeTxbuf {i : BitVec 5} (inside : i.toNat < s.cfg.cap) (v : Byte)
    (ready : Ready s := by assumption) :
    ConsumerTakes (.access (encodeWriteTxbuf i v) :: p) s p
      { s with tx := { s.tx with buf := Memory.write s.tx.buf i.toNat v } } :=
  takes_access ready (decode_wrTxbuf i v) fun _ => if_pos inside

/-- R148. -/
theorem takes_txSend (legal : 1 ≤ s.tx.len.toNat ∧ s.tx.len.toNat ≤ s.cfg.cap)
    (ready : Ready s := by assumption) :
    ConsumerTakes (.access (encodeCommand 0x03#8) :: p) s p { s with tx := s.tx.send } :=
  takes_access ready (decode_command 0x03#8) fun _ => if_pos legal

/-! ### Frames (R211 to R218) -/

/-- R220. -/
theorem takes_takeFrame {i : Instr} {bytes : List Byte} (fits : i.wf s.cfg = true)
    (encoded : encode i = .frameIn bytes) (ready : Ready s := by assumption) :
    ConsumerTakes (.takeFrame bytes :: p) s (dutyActs (driverCalls i) ++ p) s := by
  have decoded : decode (.frameIn bytes) = .ok i := encoded ▸ decodeOfEncode s.cfg i ready.1 fits
  exact .of_run ready (fun ts => by simp only [consumerAct, decoded]) decoded
    fun ts => HostToDevice.exec_duty (s := s.withQueues p ts) ⟨bytes, encoded⟩ fits

/-- R217. -/
theorem takes_sendEvent (fits : 3 ≤ s.cfg.cap) (a c : Byte) (ready : Ready s := by assumption) :
    ConsumerTakes (.sendFrame (frameBytes [opEvent, a, c]) :: p) s (sendFrameActs [opEvent, a, c] ++ p) s :=
  .of_run (i := .frameDecoderEvent a c) ready (fun _ => rfl) rfl fun ts =>
    sendFrame_fits (s := s.withQueues p ts) fits

/-- R4: a driver call is recorded. -/
theorem takes_driver (c : DriverCall) (ready : Ready s := by assumption) :
    ConsumerTakes (.driver c :: p) s p { s with con := { s.con with display := s.con.display ++ [c] } } :=
  .of_done ready fun _ => rfl

/-! ### The reference loop (R223) -/

theorem takes_loop (ready : Ready s := by assumption) : ConsumerTakes (.loop :: p) s (loopActs ++ p) s :=
  .of_done ready fun _ => rfl

theorem takes_branchStatus (ready : Ready s := by assumption) :
    ConsumerTakes (.branchStatus :: p) s (branchActs s.con.rdData ++ p) s :=
  .of_done ready fun _ => rfl

theorem takes_readPayload (ready : Ready s := by assumption) : ConsumerTakes (.readPayload :: p) s
    (readPayloadActs 0x40 s.con.rdData.toNat ++ [.takePacket] ++ p)
    { s with con := { s.con with locals := [s.con.rdData] } } :=
  .of_done ready fun _ => rfl

theorem takes_keep (ready : Ready s := by assumption) : ConsumerTakes (.keep :: p) s p
    { s with con := { s.con with locals := s.con.locals ++ [s.con.rdData] } } :=
  .of_done ready fun _ => rfl

theorem takes_takePacket (ready : Ready s := by assumption) : ConsumerTakes (.takePacket :: p) s
    ([.takeFrame s.con.locals, .loop] ++ p) { s with con := { s.con with locals := [] } } :=
  .of_done ready fun _ => rfl

theorem takes_takeIr (ready : Ready s := by assumption) : ConsumerTakes (.takeIr :: p) s (irDutyActs s.con.locals ++ p)
    { s with con := { s.con with locals := [] } } :=
  .of_done ready fun _ => rfl

end

/-! ### Runs of the consumer -/

/-- In `n` turns the consumer goes from its program `p` to `q` and takes the machine from `s` to `t`. -/
inductive ConsumerRuns : Nat → List ConsumerAct → State → List ConsumerAct → State → Prop where
  | nil (p : List ConsumerAct) (s : State) : ConsumerRuns 0 p s p s
  | cons {n : Nat} {p p' q : List ConsumerAct} {s m t : State} (first : ConsumerTakes p s p' m)
      (rest : ConsumerRuns n p' m q t) : ConsumerRuns (n + 1) p s q t

theorem ConsumerRuns.trans {n k : Nat} {p p' q : List ConsumerAct} {s m t : State} (first : ConsumerRuns n p s p' m)
    (rest : ConsumerRuns k p' m q t) : ConsumerRuns (n + k) p s q t := by
  induction first with
  | nil => exact (Nat.zero_add k).symm ▸ rest
  | cons turn _ ih => exact Nat.succ_add _ k ▸ .cons turn (ih rest)

theorem ConsumerTakes.runs {p p' : List ConsumerAct} {s t : State} (turn : ConsumerTakes p s p' t) :
    ConsumerRuns 1 p s p' t := .cons turn (.nil p' t)

/-- The machine runs through the consumer's turns, and its schedule is then used up. -/
theorem ConsumerRuns.runsTo {n k : Nat} {p q : List ConsumerAct} {s t : State} (runs : ConsumerRuns n p s q t)
    (prog : s.con.prog = p) (count : k = n) : RunsTo (List.replicate k .consumer) s (t.withQueues q []) := by
  have queued : RunsTo (List.replicate n .consumer) (s.withQueues p []) (t.withQueues q []) := by
    clear prog count
    induction runs with
    | nil p s => exact .nil rfl
    | cons turn _ ih => exact .cons (turn _) rfl ih
  subst prog count
  exact queued

end Sys2Proof
end

section
/-! The consumer carries out its duties: a frame staged and sent, a host frame's duty, and the decoder event
(43_payloads.md R217 to R221). -/

namespace Sys2Proof

open Sys2Proof.Machine

/-! ### The staged payload (R35, R96) -/

/-- A byte other than zero reads back where it was written, in canonical form or not. -/
theorem Machine.Memory.read_write_same {b : Byte} (nonzero : b ≠ 0x00#8) (m : Memory) (i : Nat) :
    Memory.read (Memory.write m i b) i = b := by
  induction m with
  | nil => simp [Memory.write, nonzero, Memory.read]
  | cons cell m ih =>
    obtain ⟨k, v⟩ := cell
    rcases Nat.lt_trichotomy i k with before | same | after
    · simp [Memory.write, Nat.ne_of_lt before, before, nonzero, Memory.read]
    · simp [Memory.write, same, nonzero, Memory.read]
    · simp [Memory.write, Nat.ne_of_gt after, Nat.not_lt_of_gt after, Memory.read, Nat.ne_of_lt after, ih]

/-- A buffer in canonical form holds the payload written from index 0 on. -/
theorem Machine.Memory.take_writeList {m : Memory} (p : List Byte) (hwf : Memory.wf m = true) :
    Memory.take (Memory.writeList m 0 p) p.length = p := by
  refine List.ext_getElem (Memory.take_length _ _) fun k _ inside => ?_
  rw [Memory.take_getElem]
  simpa using Memory.read_writeList_inside (i := 0) hwf inside

/-- A done ack's payload is staged whatever the form of the buffer. -/
theorem Machine.Memory.take_writeList_done (m : Memory) :
    Memory.take (Memory.writeList m 0 [opDone]) 1 = [opDone] :=
  congrArg (fun b => [b]) (Memory.read_write_same (by decide) m 0)

/-! ### SENDFRAME (R96) -/

/-- R96, R148: `s` after its consumer has sent a frame with this payload. -/
def sent (payload : List Byte) (s : State) : State := { s with tx := {
  len := BitVec.ofNat 8 payload.length
  buf := Memory.writeList s.tx.buf 0 payload
  q := s.tx.q ++ frameBytes payload } }

section
variable {s : State} {payload : List Byte} {p : List ConsumerAct}

theorem runs_stageActs {i : Nat} (fits : i + payload.length ≤ s.cfg.cap) (ready : Ready s := by assumption) :
    ConsumerRuns payload.length (stageActs i payload ++ p) s p
      { s with tx := { s.tx with buf := Memory.writeList s.tx.buf i payload } } := by
  induction payload generalizing i s with
  | nil => exact .nil p s
  | cons b payload ih =>
    have small := Config.cap_le_of_wf ready.1
    rw [List.length_cons] at fits
    have index : (BitVec.ofNat 5 i).toNat = i := by rw [BitVec.toNat_ofNat]; omega
    have write := takes_writeTxbuf (s := s) (p := stageActs (i + 1) payload ++ p) (i := BitVec.ofNat 5 i) (by omega) b
    rw [index] at write
    exact .cons write
      (ih (s := { s with tx := { s.tx with buf := Memory.write s.tx.buf i b } }) (by simp only; omega) ready)

/-- R96, R148: what TX_SEND sends is the payload, once the staging buffer holds it. -/
theorem runs_sendFrameActs (pos : 1 ≤ payload.length) (fits : payload.length ≤ s.cfg.cap)
    (staged : Memory.take (Memory.writeList s.tx.buf 0 payload) payload.length = payload)
    (ready : Ready s := by assumption) :
    ConsumerRuns (payload.length + 2) (sendFrameActs payload ++ p) s p (sent payload s) := by
  have small := Config.cap_le_of_wf ready.1
  have len : (BitVec.ofNat 8 payload.length).toNat = payload.length := by rw [BitVec.toNat_ofNat]; omega
  let m : State := { s with tx := { s.tx with
    len := BitVec.ofNat 8 payload.length, buf := Memory.writeList s.tx.buf 0 payload } }
  have send := takes_txSend (s := m) (p := p) (len.symm ▸ ⟨pos, fits⟩)
  have left : { m with tx := m.tx.send } = sent payload s := by
    simp only [m, sent, Tx.send, len, staged, frameBytes]
  rw [left] at send
  rw [sendFrameActs, List.append_assoc]
  exact (runs_stageActs (by omega)).trans (.cons (takes_writeTxlen _) send.runs)

end

/-- R217: the decoder event is staged in a buffer in canonical form. -/
theorem runs_sendEvent {s : State} {p : List ConsumerAct} (fits : 3 ≤ s.cfg.cap)
    (hwf : Memory.wf s.tx.buf = true) (a c : Byte) (ready : Ready s := by assumption) :
    ConsumerRuns 6 (.sendFrame (frameBytes [opEvent, a, c]) :: p) s p (sent [opEvent, a, c] s) :=
  .cons (takes_sendEvent fits a c)
    (runs_sendFrameActs (payload := [opEvent, a, c]) (by simp) fits (Memory.take_writeList _ hwf))

/-- Settles O45: the frame is expanded in one turn, staged in three, and sent in two. -/
theorem decoderEventReachesTheLink : Obligations.DecoderEventReachesTheLink := by
  intro s a c rest hc fits hwf awake prog
  have ready : Ready s := ⟨hc, awake⟩
  exact ⟨_, (runs_sendEvent fits hwf a c).runsTo prog rfl, rfl, rfl, rfl, rfl, rfl⟩

/-! ### The duty for a host frame (R220) -/

/-- R8: a mailbox holds at least one payload byte. -/
theorem Config.one_le_cap_of_wf {c : Config} (h : c.wf = true) : 1 ≤ c.cap := by
  simp only [Config.wf, decide_eq_true_eq] at h
  omega

section
variable {s : State} {p : List ConsumerAct}

/-- R146, R184: `s` after RX_REARM and UNMASK with no event latched. -/
def rxReleased (s : State) : State := { s with rx := s.rx.rearm, ids := { s.ids with gie := true } }

/-- R146, R184: with no event latched, RX_REARM and UNMASK re-arm the framer and set GIE. -/
theorem runs_rxRearm_unmask (empty : NoLatch s) (ready : Ready s := by assumption) :
    ConsumerRuns 2 (.access (encodeCommand 0x02#8) :: .access (encodeCommand 0x05#8) :: p) s p
      (rxReleased s) := by
  obtain ⟨noEdge, noByte, noTick⟩ := empty
  have rearm := takes_rxRearm (s := s) (p := .access (encodeCommand 0x05#8) :: p)
  rw [← noByte] at rearm
  exact .cons rearm (takes_unmask (s := { s with rx := s.rx.rearm }) ⟨noEdge, noByte, noTick⟩).runs

theorem runs_drivers (calls : List DriverCall) (ready : Ready s := by assumption) :
    ConsumerRuns calls.length (calls.map .driver ++ p) s p
      { s with con := { s.con with display := s.con.display ++ calls } } := by
  induction calls generalizing s with
  | nil => rw [List.append_nil]; exact .nil p s
  | cons c calls ih =>
    rw [List.append_cons]
    exact .cons (takes_driver c) (ih (s := { s with con := { s.con with display := s.con.display ++ [c] } }) ready)

/-- R220: `s` after its consumer has done its duty for a host frame with these driver calls. -/
def served (calls : List DriverCall) (s : State) : State := sent [opDone] { rxReleased s with
  con := { s.con with display := s.con.display ++ calls } }

/-- R220: re-armed and unmasked, the driver called, and the done ack sent. -/
theorem runs_dutyActs (empty : NoLatch s) (calls : List DriverCall) (ready : Ready s := by assumption) :
    ConsumerRuns (2 + (calls.length + 3)) (dutyActs calls ++ p) s p (served calls s) := by
  rw [dutyActs, List.append_assoc, List.append_assoc]
  exact (runs_rxRearm_unmask empty).trans ((runs_drivers calls).trans
    (runs_sendFrameActs (payload := [opDone]) (Nat.le_refl 1) (Config.one_le_cap_of_wf ready.1)
      (Memory.take_writeList_done _)))

/-- R220: the frame is taken up in one turn more. -/
theorem runs_takeFrame {i : Instr} {bytes : List Byte} (empty : NoLatch s) (fits : i.wf s.cfg = true)
    (encoded : encode i = .frameIn bytes) (ready : Ready s := by assumption) :
    ConsumerRuns (2 + ((driverCalls i).length + 3) + 1) (.takeFrame bytes :: p) s p (served (driverCalls i) s) :=
  .cons (takes_takeFrame fits encoded) (runs_dutyActs empty (driverCalls i))

end

/-- Settles O44: the frame is taken up as its duty, and the duty carried out. -/
theorem dutyActsAndAcknowledges : Obligations.DutyActsAndAcknowledges := by
  rintro s i rest hc ⟨bytes, encoded⟩ fits awake empty prog
  have ready : Ready s := ⟨hc, awake⟩
  rw [encoded] at prog
  exact ⟨_, (runs_takeFrame empty fits encoded).runsTo prog (by omega), rfl, rfl, rfl, rfl, rfl, rfl⟩

end Sys2Proof
end

section
/-! The reference consumer, from the top of its loop and back (43_payloads.md R221, R223; 70_reset_and_hazards.md
R296). -/

namespace Sys2Proof

open Sys2Proof.Machine

/-! ### The top of the loop (R223) -/

/-- R223: the branch the loop takes. -/
theorem branchActs_statusByte (s : State) : branchActs (statusByte s) =
    if s.rx.rdy then packetActs else if s.edc.irrdy then irActs else waitActs := by
  obtain ⟨irrdy, rxrdy, -⟩ := statusByte_bits s
  rw [branchActs, rxrdy, irrdy]

/-- R223: `s` at the branch: masked, its STATUS read. -/
def polled (s : State) : State :=
  let masked : State := { s with ids := { s.ids with gie := false } }
  returned (statusByte masked) masked

section
variable {s : State} {p : List ConsumerAct}

theorem runs_loop (ready : Ready s := by assumption) : ConsumerRuns 4 (.loop :: p) s
    ((if s.rx.rdy then packetActs else if s.edc.irrdy then irActs else waitActs) ++ p) (polled s) := by
  have branch := takes_branchStatus (s := polled s) (p := p)
  rw [show (polled s).con.rdData = statusByte { s with ids := { s.ids with gie := false } } from rfl,
    branchActs_statusByte] at branch
  exact .cons takes_loop (.cons takes_mask (.cons (takes_read .status rfl rfl) branch.runs))

/-- `s` with this last byte read and these local variables of R223. -/
def remembering (v : Byte) (locals : List Byte) (s : State) : State :=
  { s with con := { s.con with rdData := v, locals := locals } }

/-- R180, R223: a register is read and the byte kept. -/
theorem runs_readKeep {off : Offset} (r : Reg) (named : regAt s.cfg off = some r)
    (fixed : readsAnyValue s r = false) (ready : Ready s := by assumption) :
    ConsumerRuns 2 (.access (encodeRead off) :: .keep :: p) s p
      (remembering (regValue s r) (s.con.locals ++ [regValue s r]) s) :=
  .cons (takes_read r named fixed) (takes_keep (s := returned (regValue s r) s)).runs

/-! ### The packet mailbox (R220, R223) -/

/-- R49, R223: the bytes of a full mailbox are read and kept in order. -/
theorem runs_readPayloadActs {i n : Nat} (full : s.rx.rdy = true) (inside : i + n ≤ s.rx.len.toNat)
    (fits : i + n ≤ s.cfg.cap) (ready : Ready s := by assumption) :
    ∃ v, ConsumerRuns (2 * n) (readPayloadActs (0x40 + i) n ++ p) s p
      (remembering v (s.con.locals ++ (List.range' i n).map (Memory.read s.rx.buf)) s) := by
  induction n generalizing i s with
  | zero => exact ⟨s.con.rdData, by simpa [readPayloadActs, remembering] using ConsumerRuns.nil p s⟩
  | succ n ih =>
    have fixed : readsAnyValue s (.rxbuf i) = false := by simp [readsAnyValue, full]; omega
    have head := runs_readKeep (p := readPayloadActs (0x40 + (i + 1)) n ++ p) (.rxbuf i)
      (regAt_rxbuf (by omega) (Config.cap_le_of_wf ready.1)) fixed
    obtain ⟨v, tail⟩ := ih (s := remembering (Memory.read s.rx.buf i) (s.con.locals ++ [Memory.read s.rx.buf i]) s)
      (i := i + 1) full (by rw [Nat.succ_add_eq_add_succ]; exact inside) (by rw [Nat.succ_add_eq_add_succ]; exact fits)
      ready
    refine ⟨v, ?_⟩
    rw [Nat.mul_succ, Nat.add_comm, List.range'_succ, List.map_cons, List.append_cons]
    exact head.trans tail

/-- R49: the payload of a packet, byte by byte. -/
theorem map_read_eq_payload {m : Memory} {payload : List Byte}
    (held : ∀ j (h : j < payload.length), Memory.read m j = payload[j]) :
    (List.range' 0 payload.length).map (Memory.read m) = payload :=
  List.ext_getElem (by simp) fun j _ inside => by simpa using held j inside

/-- R223: the length and the payload of a full mailbox are read and taken as a packet. -/
theorem runs_packetActs {payload : List Byte} (full : s.rx.rdy = true) (count : s.rx.len.toNat = payload.length)
    (fits : payload.length ≤ s.cfg.cap) (held : ∀ j (h : j < payload.length), Memory.read s.rx.buf j = payload[j])
    (ready : Ready s := by assumption) :
    ∃ v, ConsumerRuns (2 * payload.length + 3) (packetActs ++ p) s (.takeFrame (s.rx.len :: payload) :: .loop :: p)
      (remembering v [] s) := by
  have fixed : readsAnyValue s .rxlen = false := by simp [readsAnyValue, full]
  have started := takes_readPayload (s := returned s.rx.len s) (p := p)
  rw [show (returned s.rx.len s).con.rdData.toNat = payload.length from count, List.append_assoc] at started
  obtain ⟨v, kept⟩ := runs_readPayloadActs (i := 0) (n := payload.length) (p := .takePacket :: p)
    (s := remembering s.rx.len [s.rx.len] s) full (by rw [Nat.zero_add]; exact count.ge)
    (by rw [Nat.zero_add]; exact fits) ready
  rw [show (List.range' 0 payload.length).map (Memory.read (remembering s.rx.len [s.rx.len] s).rx.buf) = payload from
    map_read_eq_payload held] at kept
  exact ⟨v, .cons (takes_read .rxlen rfl fixed) (.cons started (kept.trans (.cons takes_takePacket (.nil _ _))))⟩

/-- R89, R90: the length byte of a frame that fits CAP counts its payload. -/
theorem frameIn_fits {i : Instr} {l : Byte} {payload : List Byte} {c : Config} (fits : i.wf c = true)
    (encoded : encode i = .frameIn (l :: payload)) : l = BitVec.ofNat 8 payload.length ∧ payload.length ≤ c.cap := by
  cases i with
  | frameClear | frameDim | frameHome | frameGoto | framePrint | frameRaw =>
    cases encoded
    exact ⟨rfl, by simpa [Instr.wf] using fits⟩
  | _ => cases encoded

end

/-- Settles O47: the loop finds the mailbox full, reads the packet, takes it up and goes on at its top. -/
theorem referenceConsumerServesPacket : Obligations.ReferenceConsumerServesPacket := by
  intro s i l payload hc fits encoded awake empty prog full len held
  have ready : Ready s := ⟨hc, awake⟩
  obtain ⟨counted, inside⟩ := frameIn_fits fits encoded
  have small := Config.cap_le_of_wf hc
  have count : s.rx.len.toNat = payload.length := by rw [len, counted, BitVec.toNat_ofNat]; omega
  have top := runs_loop (s := s) (p := [])
  rw [if_pos full] at top
  obtain ⟨v, packet⟩ := runs_packetActs (s := polled s) (p := []) full count inside held
  subst len
  have duty := runs_takeFrame (s := remembering v [] (polled s)) (p := [.loop]) empty fits encoded
  exact ⟨_, (top.trans (packet.trans duty)).runsTo prog (by omega), rfl, rfl, rfl, rfl, rfl, rfl⟩

/-! ### The IR mailbox (R221, R223) -/

section
variable {s : State} {p : List ConsumerAct}

/-- R120, R184: `s` after IR_REARM and UNMASK with no event latched. -/
def irReleased (s : State) : State := { s with edc := s.edc.rearm, ids := { s.ids with gie := true } }

/-- R120, R184: with no event latched, IR_REARM and UNMASK re-arm the decoder and set GIE. -/
theorem runs_irRearm_unmask (empty : NoLatch s) (ready : Ready s := by assumption) :
    ConsumerRuns 2 (.access (encodeCommand 0x01#8) :: .access (encodeCommand 0x05#8) :: p) s p
      (irReleased s) := by
  obtain ⟨noEdge, noByte, noTick⟩ := empty
  have rearm := takes_irRearm (s := s) (p := .access (encodeCommand 0x05#8) :: p)
  rw [← noEdge] at rearm
  exact .cons rearm (takes_unmask (s := { s with edc := s.edc.rearm }) ⟨noEdge, noByte, noTick⟩).runs

/-- R221: `s` after its consumer has forwarded the decoder's word. -/
def forwarded (s : State) : State :=
  sent [opEvent, iraddrByte s.edc.word, ircmdByte s.edc.word] (irReleased (remembering (ircmdByte s.edc.word) [] s))

/-- R221, R223: the address and the command are read, the decoder re-armed, and the event sent. -/
theorem runs_irActs (full : s.edc.irrdy = true) (empty : NoLatch s) (fits : 3 ≤ s.cfg.cap)
    (hwf : Memory.wf s.tx.buf = true) (fresh : s.con.locals = []) (ready : Ready s := by assumption) :
    ConsumerRuns 13 (irActs ++ p) s (.loop :: p) (forwarded s) := by
  have fixed : (!s.edc.irrdy) = false := by simp [full]
  let address := iraddrByte s.edc.word
  let command := ircmdByte s.edc.word
  have addressRead := runs_readKeep (s := s) (p := .access (encodeRead 0x05#7) :: .keep :: .takeIr :: p)
    (off := 0x04#7) .iraddr rfl fixed
  rw [fresh] at addressRead
  have commandRead := runs_readKeep (s := remembering address [address] s) (p := .takeIr :: p)
    (off := 0x05#7) .ircmd rfl fixed
  have released := runs_irRearm_unmask (s := remembering command [] s)
    (p := .sendFrame (frameBytes [opEvent, address, command]) :: .loop :: p) empty
  have sentOut := runs_sendEvent (s := irReleased (remembering command [] s)) (p := .loop :: p) fits hwf address command
  exact addressRead.trans (commandRead.trans (.cons takes_takeIr (released.trans sentOut)))

end

/-- Settles O48: the loop finds the packet mailbox empty and the IR mailbox full, and goes on at its top. -/
theorem referenceConsumerForwardsEvent : Obligations.ReferenceConsumerForwardsEvent := by
  intro s hc fits hwf awake empty prog fresh noPacket full
  have ready : Ready s := ⟨hc, awake⟩
  have top := runs_loop (s := s) (p := [])
  rw [noPacket, if_neg Bool.false_ne_true, if_pos full] at top
  have forward := runs_irActs (s := polled s) (p := []) full empty fits hwf fresh
  exact ⟨_, iraddrByte s.edc.word, ircmdByte s.edc.word, (top.trans forward).runsTo prog rfl, rfl, rfl,
    iraddrByte_toNat _, ircmdByte_toNat _, rfl, rfl, rfl, rfl⟩

/-! ### The wait (R174, R185, R296) -/

/-- R142 to R144: of the bytes that reach an empty mailbox only the last of a frame fills it. -/
theorem Machine.Rx.byte_rdy_iff {r : Rx} (empty : r.rdy = false) (c : Config) (b : Byte) :
    (r.byte c b).rdy = true ↔ r.phase = .data ∧ r.cnt + 1#8 = r.len := by
  cases phase : r.phase with
  | len =>
    by_cases legal : 1 ≤ b.toNat ∧ b.toNat ≤ c.cap
    · simp [Rx.byte_len_legal phase legal, empty]
    · simp [Rx.byte_len_illegal (c := c) (b := b) phase (by omega), empty]
  | data =>
    by_cases last : r.cnt + 1#8 = r.len
    · simp [Rx.byte_payload_last phase last, last]
    · simp [Rx.byte_payload_more phase last, last, empty]

/-- R174, R185: after WAIT the consumer is awake exactly if an edge or a tick was latched or a byte that completes its
frame. -/
theorem drained_awake_iff {s : State} (empty : s.rx.rdy = false) : (drained true s).ids.sleep = false ↔
    s.ids.epend = true ∨ s.ids.tpend = true
      ∨ (s.ids.rpend = true ∧ s.rx.phase = .data ∧ s.rx.cnt + 1#8 = s.rx.len) := by
  show (!(s.ids.epend || s.ids.tpend || (s.ids.rpend && (drained true s).rx.rdy))) = false ↔ _
  rw [Bool.not_eq_false', Bool.or_eq_true, Bool.or_eq_true, Bool.and_eq_true, or_assoc]
  cases byte : s.ids.rpend with
  | false => simp
  | true => simp [drained, byte, Rx.byte_rdy_iff empty]

/-- Settles O49: the loop finds both mailboxes empty and ends in WAIT, whose drain decides about the wake-up. -/
theorem referenceConsumerWaits : Obligations.ReferenceConsumerWaits := by
  intro s hc awake prog noPacket noEvent
  have ready : Ready s := ⟨hc, awake⟩
  have top := runs_loop (s := s) (p := [])
  rw [noPacket, noEvent, if_neg Bool.false_ne_true, if_neg Bool.false_ne_true] at top
  have woken := drained_awake_iff (s := polled s) noPacket
  refine ⟨_, (top.trans (.cons takes_wait (.nil _ _))).runsTo prog rfl, rfl, rfl, rfl, rfl, rfl, woken.mpr,
    fun ⟨noEdge, noTick, incomplete⟩ => ?_⟩
  refine Bool.eq_true_of_not_eq_false fun awakened => ?_
  rcases woken.mp awakened with edge | tick | completes
  · cases noEdge.symm.trans edge
  · cases noTick.symm.trans tick
  · exact incomplete completes

end Sys2Proof
end

section
/-! The link partner, one move at a time: what a frame is concluded to be, when the host may send, and a law for each
thing an attempt, a receive, a poll or a send comes to (44_link_partner.md). -/

namespace Sys2Proof.Machine

/-! ### A turn of the host (R249) -/

/-- R249: a move the host makes is its whole turn. -/
theorem step_host_done {s s' : State} {m : HostMove} {ts : List Turn} (hc : s.cfg.wf = true)
    (turn : s.turns = .host m :: ts) (moved : hostTurn m { s with turns := ts } = .done s') : step s = .next s' :=
  step_of_done ((fetch_turn hc turn).trans moved)

/-- R249: a move that is refused stops the step. -/
theorem step_host_stop {s : State} {r : Refusal} {m : HostMove} {ts : List Turn} (hc : s.cfg.wf = true)
    (turn : s.turns = .host m :: ts) (stopped : hostTurn m { s with turns := ts } = .stop r) :
    step s = .refused r := by
  have fetched : fetch s = .stop r := (fetch_turn hc turn).trans stopped
  simp only [step, fetched]

/-! ### Conclusions (R243, R245) -/

section
variable {l : Link} {p : List Byte}

/-- R243: the awaited reply is the done ack. -/
theorem Link.conclude_done (awaited : l.awaiting = true) : l.conclude [opDone] =
    { l with awaiting := false, read := .idle, log := l.log ++ [.commandOk] } := by
  simp only [Link.conclude, if_pos awaited, if_true]

/-- R243: another frame stands in the place of the awaited reply. -/
theorem Link.conclude_failed (awaited : l.awaiting = true) (other : p ≠ [opDone]) : l.conclude p =
    { l with awaiting := false, read := .idle, log := l.log ++ [.commandFailed (some p)] } := by
  simp only [Link.conclude, if_pos awaited, if_neg other]

/-- R245: an unsolicited decoder event. -/
theorem Link.conclude_event (unsolicited : l.awaiting = false) (a c : Byte) : l.conclude [opEvent, a, c] =
    { l with read := .idle, log := l.log ++ [.decoderEvent a c] } := by
  simp [Link.conclude, unsolicited]

/-- R245: any other unsolicited frame. -/
theorem Link.conclude_ignored (unsolicited : l.awaiting = false) (other : ∀ a c, p ≠ [opEvent, a, c]) :
    l.conclude p = { l with read := .idle, log := l.log ++ [.ignored p] } := by
  have notAwaited : ¬ l.awaiting = true := by simp [unsolicited]
  unfold Link.conclude
  rw [if_neg notAwaited]
  split
  case h_1 op a c => exact if_neg fun isEvent => other a c (by rw [isEvent])
  case h_2 => rfl

end

/-- Settles O56: the four conclusions, by whether a reply is awaited and which frame arrived. -/
theorem hostConclusions : Obligations.HostConclusions := fun _ _ a c =>
  ⟨Link.conclude_done, Link.conclude_failed, (Link.conclude_event · a c), Link.conclude_ignored⟩

/-! ### Sends (R241, R244, R248, R249) -/

/-- R244, R248, R249: the host's duties. -/
theorem hostMaySend_iff (s : State) (p : List Byte) : hostMaySend s p = true ↔
    s.link.awaiting = false ∧ s.link.read = .idle ∧ (1 ≤ p.length ∧ p.length ≤ s.cfg.cap)
      ∧ ClientFrame s.cfg p := by
  simp [hostMaySend, clientPayload_iff, and_assoc]

theorem hostTurn_send_dutiful {s : State} {p : List Byte} (may : hostMaySend s p = true) (n : Nat) :
    hostTurn (.send p n) s = .done { s with link := s.link.write s.cfg.hostLenAttempts p n } :=
  if_pos may

theorem hostTurn_send_undutiful {s : State} {p : List Byte} (mayNot : ¬ hostMaySend s p = true) (n : Nat) :
    hostTurn (.send p n) s = .stop .hostDuty :=
  if_neg mayNot

/-- R241: the whole frame is put in flight. -/
theorem Link.write_whole {p : List Byte} {n : Nat} (whole : p.length + 1 ≤ n) (attempts : Nat) (l : Link) :
    l.write attempts p n = { l with
      wire := l.wire ++ BitVec.ofNat 8 p.length :: p, awaiting := true, read := .length attempts } := by
  have all : (frameBytes p).take n = frameBytes p := List.take_of_length_le whole
  rw [Link.write, all, if_pos whole, frameBytes]

/-- R241: a short write. -/
theorem Link.write_short {p : List Byte} {n : Nat} (short : n ≤ p.length) (attempts : Nat) (l : Link) :
    l.write attempts p n = { l with
      wire := l.wire ++ (BitVec.ofNat 8 p.length :: p).take n, awaiting := true, read := .length attempts
      log := l.log ++ [.shortWrite] } := by
  have notWhole : ¬ p.length + 1 ≤ n := by omega
  rw [Link.write, if_neg notWhole, frameBytes]

/-- Settles O53: a client command's frame meets the host's duties, and the write is whole or short. -/
theorem hostWritesFrame : Obligations.HostWritesFrame := by
  intro s ts p n hc turn unawaited idle client fits
  obtain ⟨pos, -⟩ := clientFrame_length client
  have may : hostMaySend { s with turns := ts } p = true :=
    (hostMaySend_iff _ p).mpr ⟨unawaited, idle, ⟨pos, fits⟩, client⟩
  have sends := step_host_done hc turn (hostTurn_send_dutiful may n)
  refine ⟨fun whole => ?_, fun short => ?_⟩
  · rw [sends, Link.write_whole whole]
  · rw [sends, Link.write_short short]

/-- Settles O54: each of the listed sends breaks one of the host's duties. -/
theorem hostDutiesEnforced : Obligations.HostDutiesEnforced := by
  intro s ts p n hc turn breach
  refine step_host_stop hc turn (hostTurn_send_undutiful (fun may => ?_) n)
  obtain ⟨unawaited, idle, ⟨pos, fits⟩, client⟩ := (hostMaySend_iff _ p).mp may
  rcases breach with awaited | reading | empty | long | noClient
  · cases unawaited.symm.trans awaited
  · exact reading idle
  · omega
  · exact absurd fits (Nat.not_le_of_lt long)
  · exact noClient client

/-! ### Polls (R245, R246) -/

theorem hostPoll_due {s : State} (due : s.link.awaiting = false ∧ s.link.read = .idle ∧ s.tx.q ≠ []) :
    hostPoll s = { s with link := { s.link with read := .length s.cfg.hostLenAttempts } } :=
  if_pos due

theorem hostPoll_idle {s : State} (notDue : ¬ (s.link.awaiting = false ∧ s.link.read = .idle ∧ s.tx.q ≠ [])) :
    hostPoll s = s :=
  if_neg notDue

/-- Settles O59: the poll that is due, the poll that is not, and the exit. -/
theorem hostPollAndExit : Obligations.HostPollAndExit := by
  intro s ts hc
  refine ⟨fun turn unawaited idle ready => ?due, fun turn notDue => ?notDue, fun turn => ?exit⟩
  case due => exact step_host_done hc turn (congrArg Fetched.done (hostPoll_due ⟨unawaited, idle, ready⟩))
  case notDue =>
    refine step_host_done hc turn (congrArg Fetched.done (hostPoll_idle ?_))
    rintro ⟨unawaited, idle, ready⟩
    rcases notDue with awaited | reading | empty
    · cases unawaited.symm.trans awaited
    · exact reading idle
    · exact ready empty
  case exit => exact ⟨_, step_host_done hc turn rfl, rfl, rfl, rfl⟩

/-! ### Reading a frame (R240, R242) -/

section
variable {s : State} {k : Nat} {b len : Byte} {got q : List Byte}

/-- R240: the host takes the byte at the head of TXQ. -/
theorem takeFromDevice_head (queued : s.tx.q = b :: q) (f : Byte → Link → Link) :
    takeFromDevice s f = { s with tx := { s.tx with q := q }, link := f b s.link } := by
  simp only [takeFromDevice, queued]

theorem hostAttempt_succeeds (reading : s.link.read = .length (k + 1)) (queued : s.tx.q = b :: q) :
    hostAttempt true s = { s with tx := { s.tx with q := q }, link := s.link.lengthRead b } := by
  simp only [hostAttempt, reading, if_true, takeFromDevice_head queued]

/-- R242: an attempt fails and another is left. -/
theorem hostAttempt_fails (reading : s.link.read = .length (k + 1 + 1)) :
    hostAttempt false s = { s with link := { s.link with read := .length (k + 1) } } := by
  simp [hostAttempt, reading]

/-- R242: the last attempt fails. -/
theorem hostAttempt_fails_last (reading : s.link.read = .length 1) :
    hostAttempt false s = { s with link := s.link.abandon } := by
  simp [hostAttempt, reading]

theorem hostReceive_takes (reading : s.link.read = .payload len got) (queued : s.tx.q = b :: q) :
    hostReceive s = { s with tx := { s.tx with q := q }, link := s.link.byteRead len got b } := by
  simp only [hostReceive, reading, takeFromDevice_head queued]

end

/-- R242: a byte that completes the payload. -/
theorem Link.byteRead_last {len : Byte} {got : List Byte} (last : got.length + 1 = len.toNat) (b : Byte) (l : Link) :
    l.byteRead len got b = l.conclude (got ++ [b]) :=
  if_pos last.ge

/-- R242: a byte after which the payload is still short. -/
theorem Link.byteRead_more {len : Byte} {got : List Byte} (more : got.length + 1 < len.toNat) (b : Byte) (l : Link) :
    l.byteRead len got b = { l with read := .payload len (got ++ [b]) } :=
  if_neg (Nat.not_le_of_lt more)

end Sys2Proof.Machine
end

section
/-! Runs of the link partner: the attempts at a length byte, and a frame read from TXQ (44_link_partner.md R240,
R242, R243). -/

namespace Sys2Proof

open Sys2Proof.Machine

/-- R249: a run goes on after the host's turn from the state its move leaves. -/
theorem RunsTo.cons_hostTurn {s m u : State} {move : HostMove} {ts : List Turn} (hc : s.cfg.wf = true)
    (moved : hostTurn move { s with turns := ts } = .done m) (kept : m.turns = ts) (rest : RunsTo ts m u) :
    RunsTo (.host move :: ts) s u :=
  .cons (step_host_done hc rfl moved) kept rest

/-- R242, R243: the attempts that are left fail one after the other, and the read is abandoned. -/
theorem runsTo_abandon {s : State} {k : Nat} (hc : s.cfg.wf = true) (reading : s.link.read = .length (k + 1)) :
    RunsTo (List.replicate (k + 1) (.host (.attempt false))) s
      { s with turns := [], link := s.link.abandon } := by
  induction k generalizing s with
  | zero =>
    exact .cons_hostTurn hc (congrArg Fetched.done (hostAttempt_fails_last reading)) rfl (.nil rfl)
  | succ k ih =>
    exact .cons_hostTurn hc (congrArg Fetched.done (hostAttempt_fails reading)) rfl
      (ih (s := { s with turns := _, link := { s.link with read := .length (k + 1) } }) hc rfl)

/-- Settles O57: by induction on the number of attempts. -/
theorem hostAbandonsAfterAllAttempts : Obligations.HostAbandonsAfterAllAttempts :=
  fun _ _ hc reading => runsTo_abandon hc reading

/-- R240, R242: the bytes the payload is still short of are taken off the head of TXQ, and the frame is concluded on. -/
theorem runsTo_receivePayload {s : State} {len b : Byte} {got p rest : List Byte} (hc : s.cfg.wf = true)
    (reading : s.link.read = .payload len got) (due : got.length + (b :: p).length = len.toNat)
    (queued : s.tx.q = b :: p ++ rest) :
    RunsTo (List.replicate (b :: p).length (.host .receive)) s
      { s with turns := [], tx := { s.tx with q := rest }, link := s.link.conclude (got ++ b :: p) } := by
  induction p generalizing s got b with
  | nil =>
    have received := hostReceive_takes (s := { s with turns := [] }) reading queued
    rw [Link.byteRead_last due] at received
    exact .cons_hostTurn hc (congrArg Fetched.done received) rfl (.nil rfl)
  | cons b' p ih =>
    have more : got.length + 1 < len.toNat := by simp only [List.length_cons] at due; omega
    have stillDue : (got ++ [b]).length + (b' :: p).length = len.toNat := by
      rw [← due]; simp only [List.length_append, List.length_cons, List.length_nil]; omega
    have received := hostReceive_takes
      (s := { s with turns := List.replicate (b' :: p).length (.host .receive) }) reading queued
    rw [Link.byteRead_more more] at received
    have later := ih (s := { s with
      turns := List.replicate (b' :: p).length (.host .receive), tx := { s.tx with q := b' :: p ++ rest }
      link := { s.link with read := .payload len (got ++ [b]) } }) hc rfl stillDue rfl
    rw [Link.conclude_read, List.append_assoc] at later
    exact .cons_hostTurn hc (congrArg Fetched.done received) rfl later

/-- Settles O55: the length byte is taken; an empty frame is concluded on at once, any other after its payload. -/
theorem hostReadTakesOneFrame : Obligations.HostReadTakesOneFrame := by
  intro s k p rest hc reading small queued
  refine .cons_hostTurn hc (congrArg Fetched.done (hostAttempt_succeeds reading queued)) rfl ?_
  have len : (BitVec.ofNat 8 p.length).toNat = p.length := by rw [BitVec.toNat_ofNat]; omega
  cases p with
  | nil => exact .nil rfl
  | cons b p =>
    have nonempty : BitVec.ofNat 8 (b :: p).length ≠ 0x00#8 := fun zero =>
      Nat.succ_ne_zero p.length (len.symm.trans (congrArg BitVec.toNat zero))
    rw [Link.lengthRead, if_neg nonempty]
    have payload := runsTo_receivePayload (got := []) (s := { s with
      turns := List.replicate (b :: p).length (.host .receive), tx := { s.tx with q := b :: p ++ rest }
      link := { s.link with read := .payload (BitVec.ofNat 8 (b :: p).length) [] } }) hc rfl
      (by rw [len]; exact Nat.zero_add _) rfl
    rwa [Link.conclude_read] at payload

end Sys2Proof
end

section
/-! The writers of each field of the block: what every operation can write, and with that the table of
60_exceptions.md R269. -/

namespace Sys2Proof

open Sys2Proof.Machine

/-! ### What an arriving event can write (R171 to R174) -/

section
variable (s : State)

/-- R179, R269: an edge writes the decoder, or its own latch. -/
theorem arrive_edge_written (lvl : Bool) (n : Ticks) : ∃ edc epend ependT ependL evovr sleep,
    arrive (.edge lvl n) s = { s with edc := edc, ids := { s.ids with
      epend := epend, ependT := ependT, ependL := ependL, evovr := evovr, sleep := sleep } } := by
  simp only [arrive, Ids.latch]
  split_ifs <;> exact ⟨_, _, _, _, _, _, rfl⟩

/-- R179, R269: a byte writes the receive side, or its own latch. -/
theorem arrive_rxbyte_written (b : Byte) : ∃ rx rpend rpendB evovr sleep,
    arrive (.rxbyte b) s = { s with rx := rx, ids := { s.ids with
      rpend := rpend, rpendB := rpendB, evovr := evovr, sleep := sleep } } := by
  simp only [arrive, handle_rxbyte, Ids.latch]
  split_ifs <;> exact ⟨_, _, _, _, _, rfl⟩

/-- R177, R269: a tick writes its own latch, or SLEEP. -/
theorem arrive_tick_written : ∃ tpend sleep,
    arrive .tick s = { s with ids := { s.ids with tpend := tpend, sleep := sleep } } := by
  simp only [arrive, Ids.latch]
  split_ifs <;> exact ⟨_, _, rfl⟩

end

/-! ### What an operation can write (R269) -/

/-- R269 by operation: the state each may answer, with the fields it writes at free values. A field that is not named
stays as it is. -/
inductive Written (s : State) : Instr → State → Prop where
  | edge (lvl : Bool) (n : Ticks) (edc : Edc) (epend : Bool) (ependT : Ticks) (ependL evovr sleep : Bool) :
      Written s (.edge lvl n) { s with edc := edc, ids := { s.ids with
        epend := epend, ependT := ependT, ependL := ependL, evovr := evovr, sleep := sleep } }
  | rxbyte (b : Byte) (rx : Rx) (rpend : Bool) (rpendB : Byte) (evovr sleep : Bool) :
      Written s (.rxbyte b) { s with rx := rx, ids := { s.ids with
        rpend := rpend, rpendB := rpendB, evovr := evovr, sleep := sleep } }
  | tick (tpend sleep : Bool) : Written s .tick { s with ids := { s.ids with tpend := tpend, sleep := sleep } }
  | txlen (v : Byte) : Written s (.wrTxlen v) { s with tx := { s.tx with len := v } }
  | txbuf (k : BitVec 5) (v : Byte) (buf : Memory) : Written s (.wrTxbuf k v) { s with tx := { s.tx with buf := buf } }
  | irRearm : Written s .cmdIrRearm { s with edc := s.edc.rearm, ids := { s.ids with epend := false } }
  | rxRearm : Written s .cmdRxRearm { s with rx := s.rx.rearm, ids := { s.ids with rpend := false } }
  | txSend : Written s .cmdTxSend { s with tx := s.tx.send }
  | mask : Written s .cmdMask { s with ids := { s.ids with gie := false } }
  | clrdiag : Written s .cmdClrdiag
      { s with edc := { s.edc with diag := .none }, ids := { s.ids with evovr := false } }
  | drain {i : Instr} (drains : i = .cmdUnmask ∨ i = .cmdWait) (asleep : Bool) : Written s i (drained asleep s)
  | consumer (i : Instr) (con : Consumer) : Written s i { s with con := con }

/-- R269: an operation writes no more than that; a read and a frame reach the consumer only. -/
theorem exec_written {i : Instr} {s t : State} (ran : exec i s = .next t) : Written s i t := by
  cases i with
  | edge lvl n =>
    obtain ⟨_, _, _, _, _, _, arrived⟩ := arrive_edge_written s lvl n
    rw [exec_edge_next ran, arrived]; exact .edge ..
  | rxbyte b =>
    obtain ⟨_, _, _, _, _, arrived⟩ := arrive_rxbyte_written s b
    cases ran; rw [arrived]; exact .rxbyte ..
  | tick =>
    obtain ⟨_, _, arrived⟩ := arrive_tick_written s
    cases ran; rw [arrived]; exact .tick ..
  | rd off =>
    simp only [exec, execRd] at ran
    split at ran <;> cases ran
    obtain ⟨_, _, read⟩ := readRegister_frame _ s
    rw [read]; exact .consumer ..
  | wrTxlen v => cases ran; exact .txlen v
  | wrTxbuf k v =>
    simp only [exec, execWrTxbuf] at ran
    split_ifs at ran
    cases ran; exact .txbuf ..
  | cmdIrRearm => cases ran; exact .irRearm
  | cmdRxRearm => cases ran; exact .rxRearm
  | cmdTxSend =>
    simp only [exec, execCmdTxSend] at ran
    split_ifs at ran
    cases ran; exact .txSend
  | cmdMask => cases ran; exact .mask
  | cmdUnmask => cases ran; exact drain_unmasked s.ids.sleep s ▸ .drain (.inl rfl) _
  | cmdWait => cases ran; exact drain_unmasked true s ▸ .drain (.inr rfl) _
  | cmdClrdiag => cases ran; exact .clrdiag
  | frameClear | frameDim | frameHome | frameGoto | framePrint | frameRaw =>
    rw [takeFrame_next ran]; exact .consumer ..
  | frameDecoderEvent | frameDone => rw [sendFrame_next ran]; exact .consumer ..

/-- Settles O51: by operation, a field the operation does not write is as it was, and for one it does write the
operation is among the field's writers. -/
theorem onlyTheNamedWriters : Obligations.OnlyTheNamedWriters := by
  intro s t i ran
  cases exec_written ran with
  | edge | rxbyte | tick => simp
  | txlen | txbuf | txSend => simp
  | irRearm | rxRearm => simp
  | mask | clrdiag => simp
  | drain drains asleep => simp [drains, drained]
  | consumer => simp

end Sys2Proof
end

section
/-! Reset, the commands that restore it, and the race of an unsolicited event with an awaited ack
(70_reset_and_hazards.md R290, R291, R299). -/

namespace Sys2Proof

open Sys2Proof.Machine

/-! ### The ack race (R299) -/

/-- Settles O58: the event's frame is what the read takes, and it is not the done ack that is awaited. -/
theorem eventBeforeAckFailsTheCommand : Obligations.EventBeforeAckFailsTheCommand := by
  intro s k a c rest hc reading awaited queued
  have read := hostReadTakesOneFrame s k [opEvent, a, c] rest hc reading (by simp) queued
  have notDone : [opEvent, a, c] ≠ [opDone] := by simp
  rw [Link.conclude_failed awaited notDone] at read
  exact ⟨_, read, rfl, rfl, rfl⟩

/-! ### Reset (R290) -/

/-- R43, R44: every view of a cleared WORD is 0x00. -/
theorem wordViews_cleared : irloByte 0#14 = 0x00#8 ∧ irhiByte 0#14 = 0x00#8 ∧ iraddrByte 0#14 = 0x00#8
    ∧ ircmdByte 0#14 = 0x00#8 ∧ irfldByte 0#14 = 0x00#8 := by decide

/-- R42: at reset STATUS shows EDGE_EN and RX_EN. -/
theorem statusByte_resetWith (c : Config) : statusByte (State.resetWith c) = 0x18#8 := by
  simp [statusByte, State.resetWith]

/-- R45: at reset DSTAT shows CNT = 14 over zeros. -/
theorem dstatByte_resetWith (c : Config) : dstatByte (State.resetWith c) = 0xE0#8 :=
  BitVec.eq_of_toNat_eq (dstatByte_toNat _)

/-- R46: at reset DIAG shows no cause. -/
theorem diagByte_resetWith (c : Config) : diagByte (State.resetWith c) = 0x00#8 :=
  BitVec.eq_of_toNat_eq (diagByte_toNat _)

/-- R290: every register of the window but STATUS and DSTAT reads 0x00. -/
theorem regValue_resetWith_zero (c : Config) {r : Reg} (notStatus : r ≠ .status) (notDstat : r ≠ .dstat) :
    regValue (State.resetWith c) r = 0x00#8 := by
  obtain ⟨irlo, irhi, iraddr, ircmd, irfld⟩ := wordViews_cleared
  cases r with
  | status => exact absurd rfl notStatus
  | dstat => exact absurd rfl notDstat
  | irlo => exact irlo
  | irhi => exact irhi
  | iraddr => exact iraddr
  | ircmd => exact ircmd
  | irfld => exact irfld
  | diag => exact diagByte_resetWith c
  | cmd | rxlen | rxcnt | txlen | rxbuf | txbuf => rfl

/-- Settles O7: field by field; the first edge is a leading edge, whatever its count and level. -/
theorem resetState : Obligations.ResetState := by
  intro c s
  have edges : ∀ lvl t lvl' t', s.edc.edge c lvl t = s.edc.edge c lvl' t' := fun _ _ _ _ =>
    (Edc.edge_begin rfl).trans (Edc.edge_begin rfl).symm
  exact ⟨rfl, rfl, rfl, rfl, fun _ => rfl, rfl, rfl, rfl, rfl, rfl, fun _ => rfl, rfl, rfl,
    statusByte_resetWith c, dstatByte_resetWith c, fun _ => regValue_resetWith_zero c, edges⟩

/-! ### The re-arms and CLRDIAG (R291) -/

/-- R291: a re-armed decoder differs from a reset one in DIAG alone. -/
theorem rearm_clearDiag_eq_reset (c : Config) (e : Edc) :
    { e.rearm with diag := .none } = (State.resetWith c).edc := rfl

/-- R291: a re-armed framer differs from a reset one in RXBUF alone. -/
theorem rearm_eq_reset_but_buf (c : Config) (r : Rx) :
    r.rearm = { (State.resetWith c).rx with buf := r.buf } := rfl

/-- Settles O36: IR_REARM leaves DIAG to CLRDIAG, and RX_REARM leaves RXBUF. -/
theorem rearmsRestoreReset : Obligations.RearmsRestoreReset := fun c s =>
  ⟨_, _, _, rfl, rfl, rfl, rearm_clearDiag_eq_reset c s.edc, rearm_eq_reset_but_buf c s.rx, rfl, rfl, rfl⟩

end Sys2Proof
end
